-- ==== Sys2Proof/Word.lean ====
section
/-! DEFINITION. The word types of the block (spec/00_scope.md R6): a byte is 8 bits, a word 32 bits, a command
word 16 bits, all unsigned. -/

namespace Sys2Proof

/-- A byte, 0 to 255 (R6). -/
abbrev Byte := BitVec 8

/-- A word, 0 to 2^32-1 (R6). -/
abbrev Word := BitVec 32

/-- A command word on the command port (spec/30_encoding.md R60). -/
abbrev CmdWord := BitVec 16

end Sys2Proof
end

