-- ==== Sys2Proof/Machine/Injector.lean ====
section
/-! DEFINITION. The Fault Injector as a function (spec/42_fault_injector.md R100, R101). -/

namespace Sys2Proof.Machine

/-- `INJECT_MASK` (spec/00_scope.md R4). -/
def injectMask : Byte := 0x01

/-- The injector on one byte: bit 0 flipped (R100). -/
def injectByte (b : Byte) : Byte := b ^^^ injectMask

/-- `inject`: byte 0 with bit 0 flipped; nothing for an empty payload (R100). -/
def inject : List Byte → List Byte
  | [] => []
  | b :: rest => injectByte b :: rest

end Sys2Proof.Machine
end

