-- ==== Sys2Proof/Config.lean ====
section
/-! DEFINITION. What an instance of the block fixes, and the one free value.

`BUF_BYTES` is the spec's only open parameter (spec/00_scope.md R4, spec/93_implementation_defined.md I3). It is
carried by the state as a constant that no step changes, so every statement holds for each of its values. -/

namespace Sys2Proof

/-- The parameters of an instance that R4 leaves open. -/
structure Config where
  /-- `BUF_BYTES`, the capacity of the payload buffer in bytes (R4, R25). Its width is the spec's upper
  bound 2^32-1. -/
  bufBytes : Word
  deriving DecidableEq, Repr

/-- R4: `1 <= BUF_BYTES` (the upper bound is the width). -/
def Config.wf (c : Config) : Bool :=
  decide (1 ≤ c.bufBytes.toNat)

/-- A FREE VALUE: the byte that `BUF[a]` holds after the hard reset number `epoch` and before anything was written
to it (spec/70_reset_and_hazards.md R178: "any bytes, possibly different on each reset"; log entry 4). It has no
body: nothing can be proved about which byte it is. -/
opaque Config.powerOnByte : (epoch : Nat) → (a : Nat) → Byte

end Sys2Proof
end

