-- ==== Sys2Proof/Machine/Bits.lean ====
section
/-! DEFINITION. Bit fields and byte order: zero-extension (spec/00_scope.md R7), the byte of a word and its
replacement in the little-endian order of spec/20_memory.md R45. -/

namespace Sys2Proof.Machine

/-- `zext_32(b)`: bits 31:8 zero (R7, R61). -/
def zext32 (b : Byte) : Word := b.setWidth 32

/-- `f[8*j+7 : 8*j]`, the byte number `j` of a field, `j` = 0 the least significant (R45). -/
def byteOf (f : Word) (j : Nat) : Byte := f.extractLsb' (8 * j) 8

/-- `f` with bits `[8*j+7 : 8*j]` replaced by `b`, other bits unchanged (spec/45_receive_ops.md R131). -/
def setByte (f : Word) (j : Nat) (b : Byte) : Word :=
  (f &&& ~~~((0xFF : Word) <<< (8 * j))) ||| (zext32 b <<< (8 * j))

/-- Four bytes as a word, `b0` least significant: the placement shared by `col_pack`
(spec/41_parity_engine.md R93) and `hdr_parse` (spec/43_packet_codec.md R107). -/
def packBytes (b0 b1 b2 b3 : Byte) : Word :=
  zext32 b0 ||| (zext32 b1 <<< 8) ||| (zext32 b2 <<< 16) ||| (zext32 b3 <<< 24)

end Sys2Proof.Machine
end

