-- ==== Sys2Proof/Machine/Checksum.lean ====
section
/-! DEFINITION. The Checksum Engine as functions (spec/40_checksum_engine.md R80 to R87). The shift step is the
spec's R81; the spec itself marks it as written from general knowledge and checked (log entry 12). -/

namespace Sys2Proof.Machine

/-- `CRC_POLY`, the reflected polynomial (R80). -/
def crcPoly : Word := 0xEDB88320

/-- `CRC_INIT` (R80). -/
def crcInit : Word := 0xFFFFFFFF

/-- `crc_bit`, one shift step (R81). -/
def crcBit (r : Word) : Word :=
  if r.getLsbD 0 then (r >>> 1) ^^^ crcPoly else r >>> 1

/-- `n` shift steps. -/
def crcBits : Nat → Word → Word
  | 0, r => r
  | n + 1, r => crcBits n (crcBit r)

/-- `crc_byte`, absorbing one byte: exactly 8 steps after the byte entered the low 8 bits (R82). -/
def crcByte (r : Word) (b : Byte) : Word := crcBits 8 (r ^^^ zext32 b)

/-- `crc_run`, absorbing a byte sequence, byte 0 first (R83). -/
def crcRun : Word → List Byte → Word
  | r, [] => r
  | r, b :: rest => crcRun (crcByte r b) rest

/-- `crc_out`, the one's complement of the register (R84). -/
def crcOut (r : Word) : Word := ~~~r

/-- `computeCRC32` (R85). -/
def computeCRC32 (s : List Byte) : Word := crcOut (crcRun crcInit s)

end Sys2Proof.Machine
end

