-- ==== Sys2Proof/Machine/Memory.lean ====
section
/-! DEFINITION. The payload buffer's bytes as plain data (spec/20_memory.md R40): the bytes written since the last
hard reset, addresses strictly rising. An address that is not listed holds no value here
(spec/70_reset_and_hazards.md R178; log entry 4 says what reading it gives). -/

namespace Sys2Proof.Machine

/-- The written bytes, by rising address. -/
abbrev Memory := List Host.Cell

/-- The byte written last at `a`, if any. -/
def Memory.read : Memory → Nat → Option Byte
  | [], _ => none
  | (x, b) :: m, a => if a = x then some b else Memory.read m a

/-- The memory with `v` at `a` and every other byte as before (R40). -/
def Memory.write : Memory → Nat → Byte → Memory
  | [], a, v => [(a, v)]
  | (x, b) :: m, a, v =>
    if a < x then (a, v) :: (x, b) :: m
    else if a = x then (x, v) :: m
    else (x, b) :: Memory.write m a v

/-- The canonical form: addresses strictly rising. No entry equals what an unlisted address holds, because an unlisted
address holds no value. -/
def Memory.wf : Memory → Bool
  | [] => true
  | [_] => true
  | (x, _) :: (y, c) :: m => decide (x < y) && Memory.wf ((y, c) :: m)

/-- Every listed address lies below `n`. -/
def Memory.below (n : Nat) (m : Memory) : Bool := m.all fun cell => decide (cell.1 < n)

end Sys2Proof.Machine
end

