-- ==== Sys2Proof/Machine/Parity.lean ====
section
/-! DEFINITION. The Parity Engine as functions (spec/41_parity_engine.md R90 to R98). The width is 8 and cannot be
changed (R90, decision D15). -/

namespace Sys2Proof.Machine

/-- The eight column accumulators (R90). -/
abbrev Cols := Vector Byte 8

/-- All accumulators zero (R90). -/
def colsZero : Cols := Vector.replicate 8 0

/-- `i mod 8`, the column of position `i` (R91). -/
def colIndex (i : Nat) : Fin 8 := ⟨i % 8, Nat.mod_lt i (by decide)⟩

/-- `par_step`, absorbing the byte `b` at position `i` (R91). -/
def parStep (acc : Word × Cols) (i : Nat) (b : Byte) : Word × Cols :=
  (acc.1 ^^^ zext32 b, acc.2.set (colIndex i) (acc.2[colIndex i] ^^^ b))

/-- The loop of R96 from position `i` on. -/
def parRun : Word × Cols → Nat → List Byte → Word × Cols
  | acc, _, [] => acc
  | acc, i, b :: rest => parRun (parStep acc i b) (i + 1) rest

/-- The accumulators of a whole sequence, from all zero (R90, R96). -/
def parAcc (s : List Byte) : Word × Cols := parRun (0, colsZero) 0 s

/-- `col_pack`, the first byte least significant (R93). -/
def colPack (c0 c1 c2 c3 : Byte) : Word := packBytes c0 c1 c2 c3

/-- The packed columns 0 to 3, the transmitted column parity (R93). -/
def colLow (cols : Cols) : Word := colPack cols[0] cols[1] cols[2] cols[3]

/-- The packed columns 4 to 7, never transmitted (R94, R95). -/
def colHigh (cols : Cols) : Word := colPack cols[4] cols[5] cols[6] cols[7]

/-- `row_parity`, the XOR of all bytes, zero-extended (R92). -/
def rowParity (s : List Byte) : Word := zext32 (s.foldl (· ^^^ ·) 0)

/-- `compute2DParity` at the fixed width 8 (R96). -/
def compute2DParity (s : List Byte) : Word × Word :=
  ((parAcc s).1, colLow (parAcc s).2)

end Sys2Proof.Machine
end

