-- ==== Sys2Proof/Machine/State.lean ====
section
/-! DEFINITION. The state of the block: every element of spec/10_state.md R27, the instance's configuration, the
command and response ports, and the model's own counter for the free power-on bytes. -/

namespace Sys2Proof.Machine

/-- The header record, and the register set `HDR` (spec/10_state.md R14, spec/43_packet_codec.md R105). -/
@[ext]
structure Header where
  /-- `HDR.LEN`, `data_len`. -/
  dataLen : Word
  /-- `HDR.CRC`, `crc32`. -/
  crc32 : Word
  /-- `HDR.ROW`, `row_parity`. -/
  rowParity : Word
  /-- `HDR.COL`, `col_parity`. -/
  colParity : Word
  deriving DecidableEq, Repr

/-- `PHASE` (spec/10_state.md R20); the values 6 and 7 are never held and do not exist here (log entry 9). -/
inductive Phase where
  /-- 0, nothing in progress since reset. -/
  | idle
  /-- 1, payload bytes are being absorbed. -/
  | absorb
  /-- 2, header frozen, frame being emitted. -/
  | emit
  /-- 3, fewer than 16 header bytes received. -/
  | rxhdr
  /-- 4, header complete, payload incomplete. -/
  | rxpay
  /-- 5, the frame is finished. -/
  | done
  deriving DecidableEq, Repr

/-- The fault codes that `ERR` can store (spec/10_state.md R22, spec/60_exceptions.md R151 to R153). -/
inductive FaultCode where
  /-- Code 1 (R151). -/
  | illegalCommand
  /-- Code 2 (R152). -/
  | phaseError
  /-- Code 3 (R153). -/
  | bufferFull
  deriving DecidableEq, Repr

/-- A response on the response port (spec/30_encoding.md R62). -/
@[ext]
structure Response where
  err : BitVec 4
  data : Word
  deriving DecidableEq, Repr

/-- What the host can do to the block: present a command word (spec/00_scope.md R5) or pulse the hard reset input
(spec/70_reset_and_hazards.md R175; log entry 8). -/
inductive Input where
  | command (w : CmdWord)
  | hardReset
  deriving DecidableEq, Repr

/-- The state of the block. -/
@[ext]
structure State where
  /-- The instance's parameters; no step changes them (R25). -/
  cfg : Config
  /-- `CRC`, the register before the final complement (R10). -/
  crc : Word
  /-- `ROW` (R11). -/
  row : Word
  /-- `COL[0..7]` (R12). -/
  col : Cols
  /-- `LEN` (R13). -/
  len : Word
  /-- `HDR` (R14). -/
  hdr : Header
  /-- `BUF`, the bytes written since the last hard reset (R16). -/
  buf : Memory
  /-- The model's own: the number of hard resets, which the free power-on bytes depend on (R178; log entry 4). -/
  bufEpoch : Nat
  /-- `HPOS` (R17). -/
  hpos : BitVec 5
  /-- `PPOS` (R18). -/
  ppos : Word
  /-- `PHASE` (R20). -/
  phase : Phase
  /-- `INJECTED` (R19). -/
  injected : Bool
  /-- `ERR`; none is the code 0 (R22). -/
  err : Option FaultCode
  /-- `V_VALID` (R23). -/
  vValid : Bool
  /-- `CRC_BAD` (R23). -/
  crcBad : Bool
  /-- `ROW_BAD` (R23). -/
  rowBad : Bool
  /-- `COL_BAD` (R23). -/
  colBad : Bool
  /-- `MALFORMED` (R24). -/
  malformed : Bool
  /-- The inputs the host will present, oldest first (log entry 1). -/
  inputs : List Input
  /-- The response port: the last response given (R62; log entry 2). -/
  rsp : Option Response
  deriving DecidableEq, Repr

/-- Where the MODEL stops. The spec's own faults are no stops: they are taken (spec/60_exceptions.md R159). -/
inductive Fault where
  /-- Raised by the buffer accesses of PUSH, ENC and POP at an index that is not below `BUF_BYTES`: "An address
  outside `0..BUF_BYTES-1` is never generated" (spec/20_memory.md R40). Safe: it stops only in states that no run reaches
  (log entry 5). -/
  | bufferAddress
  /-- Raised by RXB in phase RXHDR with `HPOS` above 15, for which spec/45_receive_ops.md R131 names no header field.
  Safe: it stops only in states that no run reaches (log entry 6). -/
  | headerPosition
  deriving DecidableEq, Repr

/-- Why the model has no meaning for a command. -/
inductive Refusal where
  /-- Raised by `exec` for a command that has no meaning yet; every command has one, so nothing raises it. Safe. -/
  | notModelled (mnemonic : String)
  deriving DecidableEq, Repr

/-- The block after hard reset (spec/70_reset_and_hazards.md R176): the engines at the document's initial values, all
else 0, PHASE IDLE, no byte of `BUF` written. `BUF_BYTES = 64` is a DESIGN CHOICE (log entry 3), the ports are empty
(log entries 1 and 2), and `bufEpoch` starts at 0 (log entry 4). -/
def State.reset : State where
  cfg := ⟨64⟩
  crc := 0xFFFFFFFF
  row := 0
  col := Vector.replicate 8 0
  len := 0
  hdr := ⟨0, 0, 0, 0⟩
  buf := []
  bufEpoch := 0
  hpos := 0
  ppos := 0
  phase := .idle
  injected := false
  err := none
  vValid := false
  crcBad := false
  rowBad := false
  colBad := false
  malformed := false
  inputs := []
  rsp := none

/-- The outcome of a command or a step. -/
abbrev Out := Host.Outcome State Fault Refusal

end Sys2Proof.Machine
end

