-- ==== Sys2Proof/Machine/Codec.lean ====
section
/-! DEFINITION. The Packet Codec as functions (spec/43_packet_codec.md R105 to R116): the header record and its wire
bytes, the frame, `encode`, and the receiver's `verify` and `classify`. -/

namespace Sys2Proof.Machine

/-- `header_of(p)` (R105). The length field is exact for payloads of fewer than 2^32 bytes, the only ones the spec
frames (R116, spec/93_implementation_defined.md I5). -/
def headerOf (p : List Byte) : Header :=
  ⟨BitVec.ofNat 32 p.length, computeCRC32 p, (compute2DParity p).1, (compute2DParity p).2⟩

/-- Field number `m` of the record, in the order of R105; only the numbers 0 to 3 are used. -/
def hdrField (h : Header) : Nat → Word
  | 0 => h.dataLen
  | 1 => h.crc32
  | 2 => h.rowParity
  | _ => h.colParity

/-- The header byte at frame offset `k < 16`: `f[8*j+7 : 8*j]` of field `m`, with `m = k div 4` and `j = k mod 4`
(R106). -/
def hdrByte (h : Header) (k : Nat) : Byte := byteOf (hdrField h (k / 4)) (k % 4)

/-- `hdr_bytes(h)`, always 16 bytes (R106). -/
def hdrBytes (h : Header) : Vector Byte 16 := Vector.ofFn fun k : Fin 16 => hdrByte h k

/-- `hdr_parse(b)` (R107). -/
def hdrParse (b : Vector Byte 16) : Header :=
  ⟨packBytes b[0] b[1] b[2] b[3], packBytes b[4] b[5] b[6] b[7],
    packBytes b[8] b[9] b[10] b[11], packBytes b[12] b[13] b[14] b[15]⟩

/-- The record with the byte at frame offset `k < 16` replaced by `b`, other bits unchanged
(spec/45_receive_ops.md R131). -/
def setHdrByte (h : Header) (k : Nat) (b : Byte) : Header :=
  match k / 4 with
  | 0 => { h with dataLen := setByte h.dataLen (k % 4) b }
  | 1 => { h with crc32 := setByte h.crc32 (k % 4) b }
  | 2 => { h with rowParity := setByte h.rowParity (k % 4) b }
  | _ => { h with colParity := setByte h.colParity (k % 4) b }

/-- `frame(h, q)`: the header, then the payload, nothing between them (R108). -/
def frame (h : Header) (q : List Byte) : List Byte := (hdrBytes h).toList ++ q

/-- Step 4 of `encode`: the transmitted payload (R110). -/
def transmitted (p : List Byte) (injectError : Bool) : List Byte := if injectError then inject p else p

/-- `encode(p, injectError)` (R110): the header from `p`, before the injector runs. It refuses payloads of 2^32 bytes or
more (spec/93_implementation_defined.md I5). -/
def encodePacket (p : List Byte) (injectError : Bool) : Option (Header × List Byte) :=
  if p.length < 2 ^ 32 then some (headerOf p, transmitted p injectError) else none

/-- The three comparisons of `verify` (R112). -/
structure Mismatch where
  crcBad : Bool
  rowBad : Bool
  colBad : Bool
  deriving DecidableEq, Repr

/-- IntegrityMismatch is the OR of the three (R112). -/
def anyMismatch (m : Mismatch) : Bool := m.crcBad || m.rowBad || m.colBad

/-- `verify(h, q)` (R112): each recomputed value against its header field, all 32 bits. -/
def verify (h : Header) (q : List Byte) : Mismatch :=
  ⟨computeCRC32 q != h.crc32, (compute2DParity q).1 != h.rowParity, (compute2DParity q).2 != h.colParity⟩

/-- The verdicts (spec/60_exceptions.md R154). -/
inductive Verdict where
  /-- 0, the frame is not complete yet. -/
  | more
  /-- 1, all three recomputed values equal the header's. -/
  | frameOK
  /-- 2, a recomputed value differs. -/
  | integrityMismatch
  /-- 3, the stream closed inside a frame. -/
  | malformedFrame
  /-- 4, the stream closed with no byte of a frame received. -/
  | streamClosed
  deriving DecidableEq, Repr

/-- The verdict codes of R154. -/
def verdictCode : Verdict → Word
  | .more => 0
  | .frameOK => 1
  | .integrityMismatch => 2
  | .malformedFrame => 3
  | .streamClosed => 4

/-- The verdict on a complete frame (R114, R133). -/
def verdictOf (m : Mismatch) : Verdict := if anyMismatch m then .integrityMismatch else .frameOK

/-- The first 16 bytes of a longer sequence, as the header decoder takes them. -/
def headerPart (bytes : List Byte) (h : 16 ≤ bytes.length) : Vector Byte 16 :=
  Vector.ofFn fun k : Fin 16 => bytes.get ⟨k, Nat.lt_of_lt_of_le k.isLt h⟩

/-- `classify(bytes, closed)` (R114): what a receiver concludes from the bytes since the last frame boundary. -/
def classify (bytes : List Byte) (closed : Bool) : Verdict :=
  if h : 16 ≤ bytes.length then
    let hd := hdrParse (headerPart bytes h)
    if bytes.length < 16 + hd.dataLen.toNat then
      if closed then .malformedFrame else .more
    else verdictOf (verify hd ((bytes.drop 16).take hd.dataLen.toNat))
  else if closed then
    if bytes.length = 0 then .streamClosed else .malformedFrame
  else .more

end Sys2Proof.Machine
end

