-- ==== Sys2Proof/Machine/Flags.lean ====
section
/-! DEFINITION. The status word, the verdict flags and the marks of a POP response (spec/10_state.md R19 to R24,
spec/30_encoding.md R67). -/

namespace Sys2Proof.Machine

/-- The 3-bit value of `PHASE` (R20). -/
def phaseBits : Phase → BitVec 3
  | .idle => 0
  | .absorb => 1
  | .emit => 2
  | .rxhdr => 3
  | .rxpay => 4
  | .done => 5

/-- The fault codes 1 to 3 (spec/60_exceptions.md R151 to R153). -/
def faultBits : FaultCode → BitVec 4
  | .illegalCommand => 1
  | .phaseError => 2
  | .bufferFull => 3

/-- The response code of a halted block, never stored (R155). -/
def haltedBits : BitVec 4 := 4

/-- The 4-bit value of `ERR`; 0 means no fault (R22). -/
def errBits : Option FaultCode → BitVec 4
  | none => 0
  | some f => faultBits f

/-- A flag as a word. -/
def flagWord (f : Bool) : Word := (BitVec.ofBool f).setWidth 32

/-- `STATUS` (R21, by the formula of spec/46_system_ops.md R140). -/
def statusWord (s : State) : Word :=
  (phaseBits s.phase).setWidth 32 ||| (flagWord s.injected <<< 3) ||| ((errBits s.err).setWidth 32 <<< 4)
    ||| (flagWord s.vValid <<< 8) ||| (flagWord s.crcBad <<< 9) ||| (flagWord s.rowBad <<< 10)
    ||| (flagWord s.colBad <<< 11) ||| (flagWord s.malformed <<< 12)

/-- The three comparisons of the verdict procedure, on full 32-bit values (spec/45_receive_ops.md R133). -/
def compareHeader (s : State) : Mismatch :=
  ⟨crcOut s.crc != s.hdr.crc32, s.row != s.hdr.rowParity, colLow s.col != s.hdr.colParity⟩

/-- The `data` of a POP response: the byte, `last` in bit 8, `hdr` in bit 9 (spec/30_encoding.md R67). -/
def popData (byte : Byte) (last hdr : Bool) : Word :=
  zext32 byte ||| (flagWord last <<< 8) ||| (flagWord hdr <<< 9)

end Sys2Proof.Machine
end

