-- ==== Sys2Proof/Syntax.lean ====
section
/-! DEFINITION. The nine commands (spec/30_encoding.md R64, spec/opcode_table.json), one constructor per row. -/

namespace Sys2Proof

/-- A command with its operand (R61). -/
inductive Instr where
  /-- CLR, start a message (spec/44_transmit_ops.md R120). -/
  | clr
  /-- PUSH b, absorb one payload byte (R121). -/
  | push (b : Byte)
  /-- ENC j, freeze the header and optionally inject (R122). -/
  | enc (j : Bool)
  /-- POP, emit the next byte of the frame (R123). -/
  | pop
  /-- RXS, start receiving a frame (spec/45_receive_ops.md R130). -/
  | rxs
  /-- RXB b, receive one wire byte (R131). -/
  | rxb (b : Byte)
  /-- RXE, the stream closed (R132). -/
  | rxe
  /-- RD r, read register number r (spec/46_system_ops.md R140); `r` is the whole operand field, so numbers above
  0x0D can be written down and are refused by `WellFormed`. -/
  | rd (r : BitVec 8)
  /-- RST, soft reset (R141). -/
  | rst
  deriving DecidableEq, Repr

end Sys2Proof
end

