-- ==== Sys2Proof/WellFormed.lean ====
section
/-! DEFINITION. Which commands are legal (spec/30_encoding.md R61, R68): the only operand limit that the types do not
already hold is RD's, whose register number is at most 0x0D. -/

namespace Sys2Proof

/-- R61: RD's register number "must be at most `0x0D`"; every other operand may have any value. -/
def Instr.WellFormed : Instr → Bool
  | .clr => true
  | .push _ => true
  | .enc _ => true
  | .pop => true
  | .rxs => true
  | .rxb _ => true
  | .rxe => true
  | .rd r => decide (r.toNat ≤ 0x0D)
  | .rst => true

end Sys2Proof
end

