-- ==== Sys2Proof/Decode.lean ====
section
/-! DEFINITION. Command decoding and encoding (spec/30_encoding.md R60 to R69). Decoding is total: a word is one of
the nine commands or is rejected by the name of the reservation of R68 that it meets. A command word has no
byte order (spec/20_memory.md R46), so both sides work on the 16-bit word itself. -/

namespace Sys2Proof

/-- Why a word is illegal (R68). All of them raise the same IllegalCommand fault. -/
inductive Illegal where
  /-- `op` in {0x0, 0x9, 0xA, 0xB, 0xC, 0xD, 0xE}. -/
  | reservedOp
  /-- `z != 0`. -/
  | zNotZero
  /-- CLR, POP, RXS, RXE or RST with `imm8 != 0`. -/
  | operandNotZero
  /-- ENC with `imm8[7:1] != 0`. -/
  | injectFieldNotZero
  /-- RD with `imm8 > 0x0D`. -/
  | reservedRegister
  deriving DecidableEq, Repr

/-- `op`, bits 15:12 of the command word (R60). -/
def opField (w : CmdWord) : BitVec 4 := w.extractLsb' 12 4

/-- `z`, bits 11:8 (R60). -/
def zField (w : CmdWord) : BitVec 4 := w.extractLsb' 8 4

/-- `imm8`, bits 7:0 (R60). -/
def immField (w : CmdWord) : BitVec 8 := w.extractLsb' 0 8

/-- A command without an operand: `imm8` must be 0 (R61). -/
def decodeNoOperand (i : Instr) (imm : BitVec 8) : Except Illegal Instr :=
  if imm = 0 then .ok i else .error .operandNotZero

/-- The operand rules of R61 and the opcode map of R64, once `z = 0`. -/
def decodeOp (op : BitVec 4) (imm : BitVec 8) : Except Illegal Instr :=
  match op with
  | 0x1 => decodeNoOperand .clr imm
  | 0x2 => .ok (.push imm)
  | 0x3 => if imm.extractLsb' 1 7 = 0 then .ok (.enc (imm.getLsbD 0)) else .error .injectFieldNotZero
  | 0x4 => decodeNoOperand .pop imm
  | 0x5 => decodeNoOperand .rxs imm
  | 0x6 => .ok (.rxb imm)
  | 0x7 => decodeNoOperand .rxe imm
  | 0x8 => if imm.toNat ≤ 0x0D then .ok (.rd imm) else .error .reservedRegister
  | 0xF => decodeNoOperand .rst imm
  | _ => .error .reservedOp

/-- The command a word stands for, or why it is illegal (R64, R68). -/
def decode (w : CmdWord) : Except Illegal Instr :=
  if zField w = 0 then decodeOp (opField w) (immField w) else .error .zNotZero

/-- `op` of a command (R64). -/
def Instr.opcode : Instr → BitVec 4
  | .clr => 0x1
  | .push _ => 0x2
  | .enc _ => 0x3
  | .pop => 0x4
  | .rxs => 0x5
  | .rxb _ => 0x6
  | .rxe => 0x7
  | .rd _ => 0x8
  | .rst => 0xF

/-- `imm8` of a command (R61). -/
def Instr.operand : Instr → BitVec 8
  | .clr => 0
  | .push b => b
  | .enc j => if j then 1 else 0
  | .pop => 0
  | .rxs => 0
  | .rxb b => b
  | .rxe => 0
  | .rd r => r
  | .rst => 0

/-- The command word `op : z : imm8` with `z = 0` (R60, R64; R72 "The assembled word is `(op << 12) | operand`"). -/
def encode (i : Instr) : CmdWord :=
  (i.opcode.setWidth 16 <<< 12) ||| i.operand.setWidth 16

/-- A word is legal when it decodes (R68). -/
def legalWord (w : CmdWord) : Bool :=
  match decode w with
  | .ok _ => true
  | .error _ => false

/-- A row of the opcode map: a word `w` belongs to it when `(w and mask) = pattern` (R64). -/
structure OpcodeRow where
  mnemonic : String
  pattern : CmdWord
  mask : CmdWord
  deriving DecidableEq, Repr

/-- The opcode map of R64 as the spec lays it out (RD's further limit `w[7:0] <= 0x0D` stands in `inRow`). -/
def opcodeMap : List OpcodeRow :=
  [ ⟨"CLR", 0x1000, 0xFFFF⟩, ⟨"PUSH", 0x2000, 0xFF00⟩, ⟨"ENC", 0x3000, 0xFFFE⟩,
    ⟨"POP", 0x4000, 0xFFFF⟩, ⟨"RXS", 0x5000, 0xFFFF⟩, ⟨"RXB", 0x6000, 0xFF00⟩,
    ⟨"RXE", 0x7000, 0xFFFF⟩, ⟨"RD", 0x8000, 0xFF00⟩, ⟨"RST", 0xF000, 0xFFFF⟩ ]

/-- R64's reading of a row. -/
def inRow (row : OpcodeRow) (w : CmdWord) : Bool :=
  (w &&& row.mask == row.pattern) && (row.mnemonic != "RD" || decide ((w.extractLsb' 0 8).toNat ≤ 0x0D))

/-- The mnemonic of a command in R64 and in spec/opcode_table.json. -/
def Instr.mnemonic : Instr → String
  | .clr => "CLR"
  | .push _ => "PUSH"
  | .enc _ => "ENC"
  | .pop => "POP"
  | .rxs => "RXS"
  | .rxb _ => "RXB"
  | .rxe => "RXE"
  | .rd _ => "RD"
  | .rst => "RST"

/-- What the decoder reads from a table row's word `w` of `nbits` bits, the bits above `nbits` being 0; a command has
one word, so a row of more than 16 bits is no command (log entry 14). -/
def decodeTableWord (nbits w : Nat) : Option Instr :=
  if nbits ≤ 16 then
    match decode (BitVec.ofNat 16 (w % 2 ^ nbits)) with
    | .ok i => some i
    | .error _ => none
  else none

end Sys2Proof
end

