-- ==== Sys2Proof/Machine/Operands.lean ====
section
/-! DEFINITION. The operand forms (spec/30_encoding.md R61, R70). A data byte is used as it stands and a flag is one
bit, so PUSH, RXB and ENC carry their operand in the command itself; what is left is RD's register number. -/

namespace Sys2Proof.Machine

/-- The registers RD reads (R70). -/
inductive Reg where
  | status | len | crc | crcOut | row | colLo | colHi
  | hdrLen | hdrCrc | hdrRow | hdrCol | hpos | ppos | bufBytes
  deriving DecidableEq, Repr

/-- The register number of R70. -/
def regNumber : Reg → BitVec 8
  | .status => 0x00
  | .len => 0x01
  | .crc => 0x02
  | .crcOut => 0x03
  | .row => 0x04
  | .colLo => 0x05
  | .colHi => 0x06
  | .hdrLen => 0x07
  | .hdrCrc => 0x08
  | .hdrRow => 0x09
  | .hdrCol => 0x0A
  | .hpos => 0x0B
  | .ppos => 0x0C
  | .bufBytes => 0x0D

/-- The register a number selects; 0x0E to 0xFF are reserved (R70). -/
def regOf (r : BitVec 8) : Option Reg :=
  match r with
  | 0x00 => some .status
  | 0x01 => some .len
  | 0x02 => some .crc
  | 0x03 => some .crcOut
  | 0x04 => some .row
  | 0x05 => some .colLo
  | 0x06 => some .colHi
  | 0x07 => some .hdrLen
  | 0x08 => some .hdrCrc
  | 0x09 => some .hdrRow
  | 0x0A => some .hdrCol
  | 0x0B => some .hpos
  | 0x0C => some .ppos
  | 0x0D => some .bufBytes
  | _ => none

/-- The phase table (spec/60_exceptions.md R160): which phases accept which command. -/
def accepts (i : Instr) (p : Phase) : Bool :=
  match i with
  | .clr | .rxs =>
    match p with
    | .idle | .absorb | .done => true
    | .emit | .rxhdr | .rxpay => false
  | .push _ | .enc _ =>
    match p with
    | .absorb => true
    | .idle | .emit | .rxhdr | .rxpay | .done => false
  | .pop =>
    match p with
    | .emit => true
    | .idle | .absorb | .rxhdr | .rxpay | .done => false
  | .rxb _ | .rxe =>
    match p with
    | .rxhdr | .rxpay => true
    | .idle | .absorb | .emit | .done => false
  | .rd _ | .rst => true

/-- The commands a halted block executes: a legal RD and RST (spec/60_exceptions.md R155, R158 step 1). -/
def runsHalted : Instr → Bool
  | .rd r => (regOf r).isSome
  | .rst => true
  | .clr | .push _ | .enc _ | .pop | .rxs | .rxb _ | .rxe => false

end Sys2Proof.Machine
end

