-- ==== Sys2Proof/Machine/Ops.lean ====
section
/-! DEFINITION. The named operations over the state: responding, taking a fault and the ways back from it, the common
checks, the buffer accesses, the common initialisation, absorbing a byte, the verdict procedure, the register
values, the resets, and taking the host's next input. -/

namespace Sys2Proof.Machine

/-- The state with the response `(e, d)` on the port (spec/00_scope.md R8 `respond`). -/
def answer (e : BitVec 4) (d : Word) (s : State) : State := { s with rsp := some ⟨e, d⟩ }

/-- `respond(e, d)`: the step ends (R8). -/
def respond (e : BitVec 4) (d : Word) (s : State) : Out := .next (answer e d s)

/-- TAKING A FAULT, `raise Fault(c)` (spec/60_exceptions.md R159): `ERR <- c`, nothing else changes, the response is
`(c, 0)`. There is no saved state, no vector and no handler. -/
def raise (c : FaultCode) (s : State) : Out := respond (faultBits c) 0 { s with err := some c }

/-- The answer of a halted block: `(4, 0)`, no state change (R155). -/
def respondHalted (s : State) : Out := respond haltedBits 0 s

/-- The block is halted (spec/10_state.md R22). -/
def halted (s : State) : Bool := s.err.isSome

/-- The checks before a legal command's own rule, in the order of R158: halted, then phase. -/
def checked (i : Instr) (s : State) (own : Out) : Out :=
  if halted s && !runsHalted i then respondHalted s
  else if accepts i s.phase then own
  else raise .phaseError s

/-- What happens to an illegal word: Halted when halted, else IllegalCommand (R151, R155, R158 steps 1 and 2). -/
def illegalWord (s : State) : Out :=
  if halted s then respondHalted s else raise .illegalCommand s

/-- The byte `BUF[a]` holds: the one written last, else the free power-on byte (log entry 4). -/
def readBuf (s : State) (a : Nat) : Byte :=
  match Memory.read s.buf a with
  | some b => b
  | none => Config.powerOnByte s.bufEpoch a

/-- The state with `v` in `BUF[a]`. -/
def writeBuf (s : State) (a : Nat) (v : Byte) : State := { s with buf := Memory.write s.buf a v }

/-- `MemRead(a, 1)` (spec/00_scope.md R8, spec/20_memory.md R40). -/
def memRead (s : State) (a : Nat) (k : Byte → Out) : Out :=
  if a < s.cfg.bufBytes.toNat then k (readBuf s a) else .fault .bufferAddress

/-- `MemWrite(a, 1, v)` (R8, R40). -/
def memWrite (s : State) (a : Nat) (v : Byte) (k : State → Out) : Out :=
  if a < s.cfg.bufBytes.toNat then k (writeBuf s a v) else .fault .bufferAddress

/-- `start()`, the common initialisation of CLR and RXS (spec/44_transmit_ops.md R120). `BUF` and `ERR` are not
written. -/
def start (s : State) : State :=
  { s with
    crc := crcInit, row := 0, col := colsZero, len := 0, hdr := ⟨0, 0, 0, 0⟩, hpos := 0, ppos := 0,
    injected := false, vValid := false, crcBad := false, rowBad := false, colBad := false, malformed := false }

/-- One payload byte through the engines: CRC, ROW, COL and LEN, each from the state before (R121, R131). -/
def absorb (b : Byte) (s : State) : State :=
  { s with
    crc := crcByte s.crc b
    row := (parStep (s.row, s.col) s.len.toNat b).1
    col := (parStep (s.row, s.col) s.len.toNat b).2
    len := s.len + 1 }

/-- Steps 1 to 3 of `encode`: the header from the engines (R122). -/
def freezeHeader (s : State) : State :=
  { s with hdr := ⟨s.len, crcOut s.crc, s.row, colLow s.col⟩ }

/-- `PHASE <- p` (spec/00_scope.md R8, spec/10_state.md R20). -/
def enter (p : Phase) (s : State) : State := { s with phase := p }

/-- The verdict flags from the three comparisons (spec/10_state.md R23). -/
def setVerdict (m : Mismatch) (s : State) : State :=
  { s with vValid := true, crcBad := m.crcBad, rowBad := m.rowBad, colBad := m.colBad }

/-- `MALFORMED <- 1` (spec/45_receive_ops.md R132). -/
def setMalformed (s : State) : State := { s with malformed := true }

/-- `HPOS <- HPOS + 1`, an emitted header byte (spec/44_transmit_ops.md R123). -/
def countHeaderByte (s : State) : State := { s with hpos := s.hpos + 1 }

/-- `PPOS <- PPOS + 1`, an emitted payload byte (R123). -/
def countPayloadByte (s : State) : State := { s with ppos := s.ppos + 1 }

/-- A received header byte: its place in `HDR` and `HPOS <- HPOS + 1` (spec/45_receive_ops.md R131). -/
def placeHeaderByte (b : Byte) (s : State) : State :=
  { s with hdr := setHdrByte s.hdr s.hpos.toNat b, hpos := s.hpos + 1 }

/-- The end of ENC: `INJECTED` and the counters (spec/44_transmit_ops.md R122). -/
def rewind (injected : Bool) (s : State) : State := { s with injected := injected, hpos := 0, ppos := 0 }

/-- `verdict()` (spec/45_receive_ops.md R133): the flags from the comparisons, phase DONE, and the response with the
verdict's code. -/
def giveVerdict (s : State) : Out :=
  respond 0 (verdictCode (verdictOf (compareHeader s))) (enter .done (setVerdict (compareHeader s) s))

/-- The value of a register (spec/30_encoding.md R70, spec/46_system_ops.md R140). -/
def regValue (s : State) : Reg → Word
  | .status => statusWord s
  | .len => s.len
  | .crc => s.crc
  | .crcOut => crcOut s.crc
  | .row => s.row
  | .colLo => colLow s.col
  | .colHi => colHigh s.col
  | .hdrLen => s.hdr.dataLen
  | .hdrCrc => s.hdr.crc32
  | .hdrRow => s.hdr.rowParity
  | .hdrCol => s.hdr.colParity
  | .hpos => s.hpos.setWidth 32
  | .ppos => s.ppos
  | .bufBytes => s.cfg.bufBytes

/-- RST's effect: every element but `BUF` at its reset value (spec/46_system_ops.md R141, R177). It is the return from
the halted condition (spec/60_exceptions.md R161). -/
def softReset (s : State) : State :=
  { start s with phase := .idle, err := none }

/-- The hard reset input (spec/70_reset_and_hazards.md R175, R176): every element at its reset value, the contents of
`BUF` fresh and unspecified (R178), no response. The configuration and the host's further inputs are not the
block's to reset. -/
def hardReset (s : State) : State :=
  { softReset s with buf := [], bufEpoch := s.bufEpoch + 1, rsp := none }

/-- The host's next input and the state without it (log entry 1). -/
def takeInput (s : State) : Option (Input × State) :=
  match s.inputs with
  | [] => none
  | x :: rest => some (x, { s with inputs := rest })

/-- The state with the word `w` as the host's next input. -/
def presentWord (w : CmdWord) (s : State) : State := { s with inputs := .command w :: s.inputs }

end Sys2Proof.Machine
end

