-- ==== Sys2Proof/Machine/Receive.lean ====
section
/-! DEFINITION. The receive-path commands RXS, RXB, RXE (spec/45_receive_ops.md). -/

namespace Sys2Proof.Machine

/-- RXS (R130). -/
def execRxs (s : State) : Out :=
  checked .rxs s (respond 0 0 (enter .rxhdr (start s)))

/-- What follows a header byte; `t` is the state with the byte placed and `HPOS` advanced (R131). -/
def afterHeaderByte (t : State) : Out :=
  if t.hpos.toNat < 16 then respond 0 (verdictCode .more) t
  else if t.hdr.dataLen = 0 then giveVerdict t
  else respond 0 (verdictCode .more) (enter .rxpay t)

/-- RXB in phase RXHDR, a header byte (R131); a position above 15 names no field (log entry 6). -/
def receiveHeaderByte (b : Byte) (s : State) : Out :=
  if s.hpos.toNat < 16 then afterHeaderByte (placeHeaderByte b s)
  else .fault .headerPosition

/-- RXB in phase RXPAY, a payload byte (R131). -/
def receivePayloadByte (b : Byte) (s : State) : Out :=
  if (absorb b s).len = s.hdr.dataLen then giveVerdict (absorb b s)
  else respond 0 (verdictCode .more) (absorb b s)

/-- RXB b (R131). -/
def execRxb (b : Byte) (s : State) : Out :=
  checked (.rxb b) s <|
    if s.phase = .rxhdr then receiveHeaderByte b s else receivePayloadByte b s

/-- RXE (R132). -/
def execRxe (s : State) : Out :=
  checked .rxe s <|
    if s.phase = .rxhdr ∧ s.hpos = 0 then respond 0 (verdictCode .streamClosed) (enter .done s)
    else respond 0 (verdictCode .malformedFrame) (enter .done (setMalformed s))

end Sys2Proof.Machine
end

