-- ==== Sys2Proof/Machine/System.lean ====
section
/-! DEFINITION. The system commands RD and RST (spec/46_system_ops.md). -/

namespace Sys2Proof.Machine

/-- RD r (R140). A register number above 0x0D is an illegal word (log entry 13). -/
def execRd (r : BitVec 8) (s : State) : Out :=
  checked (.rd r) s <|
    match regOf r with
    | some g => respond 0 (regValue s g) s
    | none => raise .illegalCommand s

/-- RST (R141). -/
def execRst (s : State) : Out :=
  checked .rst s (respond 0 0 (softReset s))

end Sys2Proof.Machine
end

