-- ==== Sys2Proof/Machine/Transmit.lean ====
section
/-! DEFINITION. The transmit-path commands CLR, PUSH, ENC, POP (spec/44_transmit_ops.md). -/

namespace Sys2Proof.Machine

/-- CLR (R120). -/
def execClr (s : State) : Out :=
  checked .clr s (respond 0 0 (enter .absorb (start s)))

/-- PUSH b (R121). -/
def execPush (b : Byte) (s : State) : Out :=
  checked (.push b) s <|
    if s.len = s.cfg.bufBytes then raise .bufferFull s
    else memWrite s s.len.toNat b fun t => respond 0 0 (absorb b t)

/-- The end of ENC: `INJECTED`, the counters and the phase (R122). -/
def beginEmit (injected : Bool) (s : State) : Out := respond 0 0 (enter .emit (rewind injected s))

/-- ENC j (R122): the header is frozen before the buffer is touched. -/
def execEnc (j : Bool) (s : State) : Out :=
  checked (.enc j) s <|
    if j = true ∧ s.len ≠ 0 then
      memRead (freezeHeader s) 0 fun v =>
        memWrite (freezeHeader s) 0 (injectByte v) fun t => beginEmit true t
    else beginEmit false (freezeHeader s)

/-- The end of POP: `last` from the counters after the step, DONE on the last byte, the response (R123). `t` is the
state with its counter advanced. -/
def emitByte (byte : Byte) (hdr : Bool) (t : State) : Out :=
  if t.hpos = 16 ∧ t.ppos = t.hdr.dataLen then respond 0 (popData byte true hdr) (enter .done t)
  else respond 0 (popData byte false hdr) t

/-- POP (R123). -/
def execPop (s : State) : Out :=
  checked .pop s <|
    if s.hpos.toNat < 16 then emitByte (hdrByte s.hdr s.hpos.toNat) true (countHeaderByte s)
    else memRead s s.ppos.toNat fun v => emitByte v false (countPayloadByte s)

end Sys2Proof.Machine
end

