-- ==== Sys2Proof/Machine/Dispatch.lean ====
section
/-! DEFINITION. The meaning of every command, one arm per constructor. -/

namespace Sys2Proof.Machine

def exec (i : Instr) (s : State) : Host.Outcome State Fault Refusal :=
  match i with
  | .clr => Sys2Proof.Machine.execClr s
  | .push b => Sys2Proof.Machine.execPush b s
  | .enc j => Sys2Proof.Machine.execEnc j s
  | .pop => Sys2Proof.Machine.execPop s
  | .rxs => Sys2Proof.Machine.execRxs s
  | .rxb b => Sys2Proof.Machine.execRxb b s
  | .rxe => Sys2Proof.Machine.execRxe s
  | .rd r => Sys2Proof.Machine.execRd r s
  | .rst => Sys2Proof.Machine.execRst s

end Sys2Proof.Machine
end

