-- ==== Sys2Proof/Machine/Step.lean ====
section
/-! DEFINITION. One step of the block (spec/00_scope.md R5, spec/60_exceptions.md R158). -/

namespace Sys2Proof.Machine

/-- The spec's `step(w)`: the whole effect of one command word (R158). -/
def issue (w : CmdWord) (s : State) : Host.Outcome State Fault Refusal :=
  match decode w with
  | .ok i => exec i s
  | .error _ => illegalWord s

/-- One step: the host's next input takes effect; without one the block waits, unchanged (R5, R175; log entry 1). -/
def step (s : State) : Host.Outcome State Fault Refusal :=
  match takeInput s with
  | none => .next s
  | some (.command w, t) => issue w t
  | some (.hardReset, t) => .next (hardReset t)

/-- The state in which the table word `w` is the next word on the command port (log entry 10). -/
def State.withFetchWord (s : State) (nbits w : Nat) : State :=
  presentWord (BitVec.ofNat 16 (w % 2 ^ nbits)) s

end Sys2Proof.Machine
end

