-- ==== Sys2Proof/Machine/Asm.lean ====
section
/-! DEFINITION. The spec's notation for command sequences (spec/30_encoding.md R72 to R76): the pseudo-instructions as
the commands they expand to, the assembler of one source line, and the way a response is written. It has no
effect on the block (decision D25). -/

namespace Sys2Proof.Machine

/-! ### Pseudo-instructions as command sequences -/

/-- PUSHS and PUSHB: one PUSH per byte (R73). -/
def pushAll (bytes : List Byte) : List Instr := bytes.map .push

/-- RXBS: one RXB per byte (R73). -/
def receiveAll (bytes : List Byte) : List Instr := bytes.map .rxb

/-- POPN n (R73). -/
def popAll (n : Nat) : List Instr := List.replicate n .pop

/-- ENCODE (R74): CLR, the payload, ENC, one POP per frame byte. -/
def encodeCommands (p : List Byte) (j : Bool) : List Instr :=
  .clr :: (pushAll p ++ .enc j :: popAll (16 + p.length))

/-- CRC32 (R75). -/
def crc32Commands (p : List Byte) : List Instr := .clr :: (pushAll p ++ [.rd (regNumber .crcOut)])

/-- PARITY (R75). -/
def parityCommands (p : List Byte) : List Instr :=
  .clr :: (pushAll p ++ [.rd (regNumber .row), .rd (regNumber .colLo)])

/-- RXFRAME (R76). -/
def receiveCommands (w : List Byte) : List Instr := .rxs :: receiveAll w

/-! ### Tokens of a source line -/

/-- What a source line is made of. How a run of letters and digits is to be read depends on the operand it stands for: in a
byte listing `31` is a pair of hex digits (spec/00_scope.md R6), as PUSH's operand it is decimal (R72). -/
inductive Token where
  | run (cs : List Char)
  | character (b : Byte)
  | text (bytes : List Byte)
  | comma
  deriving DecidableEq, Repr

/-- The ASCII code of a character (R72, R73); other characters have none. -/
def asciiCode (ch : Char) : Option Byte :=
  if ch.toNat < 128 then some (BitVec.ofNat 8 ch.toNat) else none

/-- The value of a digit character in base 16. -/
def digitValue (ch : Char) : Option Nat :=
  if 48 ≤ ch.toNat ∧ ch.toNat ≤ 57 then some (ch.toNat - 48)
  else if 65 ≤ ch.toNat ∧ ch.toNat ≤ 70 then some (ch.toNat - 55)
  else if 97 ≤ ch.toNat ∧ ch.toNat ≤ 102 then some (ch.toNat - 87)
  else none

/-- Digits of a base, most significant first, onto an accumulated value. -/
def digitsValue (base : Nat) : Nat → List Char → Option Nat
  | acc, [] => some acc
  | acc, ch :: rest =>
    match digitValue ch with
    | some d => if d < base then digitsValue base (base * acc + d) rest else none
    | none => none

/-- A number: `0x41` or decimal `65` (R72). DESIGN CHOICE: leading zeros are allowed, and these two forms, which R72 gives for
byte operands, are those of every number in a line (log entry 17). -/
def numberValue : List Char → Option Nat
  | '0' :: 'x' :: d :: rest => digitsValue 16 0 (d :: rest)
  | cs => digitsValue 10 0 cs

/-- The characters of names and numbers: letters, digits, underscore and the dot of `.word`. -/
def wordChar (ch : Char) : Bool := ch.isAlphanum || ch == '_' || ch == '.'

/-- The tokens of a line; `fuel` bounds their number. A `;` starts a comment (R72). DESIGN CHOICE (log entry 17): a `;` always
does, so what follows it on the line is dropped even where R76 and the command lists of spec/95_test_vectors.md set `;`
between commands; only inside a quoted character or a text is it an ordinary character. A space is needed between two
runs alone, and a character with no place here makes the line unreadable. -/
def tokens : (fuel : Nat) → List Char → Option (List Token)
  | _, [] => some []
  | 0, _ :: _ => none
  | fuel + 1, ch :: rest =>
    if ch = ';' then some []
    else if ch = ' ' ∨ ch = '\t' then tokens fuel rest
    else if ch = ',' then (tokens fuel rest).map (.comma :: ·)
    else if ch = '\'' then
      match rest with
      | x :: '\'' :: more =>
        (asciiCode x).bind fun b => (tokens fuel more).map (.character b :: ·)
      | _ => none
    else if ch = '"' then
      match rest.dropWhile (· != '"') with
      | _ :: more =>
        ((rest.takeWhile (· != '"')).mapM asciiCode).bind fun bs => (tokens fuel more).map (.text bs :: ·)
      | [] => none
    else if wordChar ch then
      (tokens fuel ((ch :: rest).dropWhile wordChar)).map (.run ((ch :: rest).takeWhile wordChar) :: ·)
    else none

/-! ### Assembling a line -/

/-- A byte operand: a number up to 255 or a character (R72). -/
def byteOperand : Token → Option Byte
  | .run cs => (numberValue cs).bind fun n => if n < 256 then some (BitVec.ofNat 8 n) else none
  | .character b => some b
  | .text _ | .comma => none

/-- A byte written as two hex digits, as the byte listings have it (spec/00_scope.md R6). -/
def hexPair : List Char → Option Byte
  | [hi, lo] =>
    match digitValue hi, digitValue lo with
    | some h, some l => some (BitVec.ofNat 8 (16 * h + l))
    | _, _ => none
  | _ => none

/-- One byte of a listing `b0 b1 ...` (R73, R76): two hex digits (R6), else in a form of R72 (log entry 17). -/
def listedByte : Token → Option Byte
  | .run cs =>
    match hexPair cs with
    | some b => some b
    | none => byteOperand (.run cs)
  | .character b => some b
  | .text _ | .comma => none

/-- The register names of R70. -/
def regName : Reg → String
  | .status => "STATUS"
  | .len => "LEN"
  | .crc => "CRC"
  | .crcOut => "CRC_OUT"
  | .row => "ROW"
  | .colLo => "COL_LO"
  | .colHi => "COL_HI"
  | .hdrLen => "HDR_LEN"
  | .hdrCrc => "HDR_CRC"
  | .hdrRow => "HDR_ROW"
  | .hdrCol => "HDR_COL"
  | .hpos => "HPOS"
  | .ppos => "PPOS"
  | .bufBytes => "BUF_BYTES"

/-- All registers, in the order of their numbers. -/
def allRegs : List Reg :=
  [.status, .len, .crc, .crcOut, .row, .colLo, .colHi,
   .hdrLen, .hdrCrc, .hdrRow, .hdrCol, .hpos, .ppos, .bufBytes]

/-- RD's operand: a register name of R70 or its number (R72). DESIGN CHOICE: the number is written as a byte operand is, a
quoted character excepted, and a reserved number gives an illegal word (log entry 17). -/
def regOperand : Token → Option (BitVec 8)
  | .run cs =>
    match allRegs.find? fun r => (regName r).toList == cs with
    | some r => some (regNumber r)
    | none => byteOperand (.run cs)
  | .character _ | .text _ | .comma => none

/-- The flag operand of ENC and ENCODE: `0` or `1` (R72). DESIGN CHOICE: any numeral of that value is taken, `0x1` or `01` too
(log entry 17). -/
def flagOperand : Token → Option Bool
  | .run cs =>
    match numberValue cs with
    | some 0 => some false
    | some 1 => some true
    | _ => none
  | .character _ | .text _ | .comma => none

/-- The commands and pseudo-instructions of R72 to R76. -/
inductive Mnemonic where
  | clr | push | enc | pop | rxs | rxb | rxe | rd | rst | rawWord
  | pushs | pushb | rxbs | popn | encodeFrame | crc32 | parity | rxframe
  deriving DecidableEq, Repr

/-- Their spelling. -/
def mnemonicTable : List (String × Mnemonic) :=
  [("CLR", .clr), ("PUSH", .push), ("ENC", .enc), ("POP", .pop), ("RXS", .rxs), ("RXB", .rxb),
   ("RXE", .rxe), ("RD", .rd), ("RST", .rst), (".word", .rawWord), ("PUSHS", .pushs), ("PUSHB", .pushb),
   ("RXBS", .rxbs), ("POPN", .popn), ("ENCODE", .encodeFrame), ("CRC32", .crc32), ("PARITY", .parity),
   ("RXFRAME", .rxframe)]

/-- The words of a command sequence. -/
def wordsOf (is : List Instr) : List CmdWord := is.map encode

/-- A command without operands. -/
def noOperand (i : Instr) : List Token → Option (List CmdWord)
  | [] => some (wordsOf [i])
  | _ :: _ => none

/-- Exactly one operand. -/
def oneOperand (f : Token → Option (List CmdWord)) : List Token → Option (List CmdWord)
  | [t] => f t
  | _ => none

/-- A listing of bytes, separated by spaces (R73, R76). DESIGN CHOICE: it may be empty, which gives no words for PUSHB and RXBS
and RXS alone for RXFRAME (log entry 17). -/
def byteOperands (f : List Byte → List Instr) (ts : List Token) : Option (List CmdWord) :=
  (ts.mapM listedByte).map fun bs => wordsOf (f bs)

/-- A text operand. DESIGN CHOICE: its length is not held against `BUF_BYTES`, which R75 limits texts by (log entry 17). -/
def textOperand (f : List Byte → List Instr) : Token → Option (List CmdWord)
  | .text bs => some (wordsOf (f bs))
  | _ => none

/-- A number operand, POPN's count and the word of `.word`, in either form of `numberValue` (DESIGN CHOICE, log entry 17). -/
def numberOperand (f : Nat → Option (List CmdWord)) : Token → Option (List CmdWord)
  | .run cs => (numberValue cs).bind f
  | .character _ | .text _ | .comma => none

/-- ENCODE's operands: a text, a comma and the flag (R74). -/
def encodeOperands : List Token → Option (List CmdWord)
  | .text bs :: .comma :: rest =>
    oneOperand (fun t => (flagOperand t).map fun j => wordsOf (encodeCommands bs j)) rest
  | _ => none

/-- The words of a mnemonic with its operands (R72 to R76). -/
def assembleOp (m : Mnemonic) : List Token → Option (List CmdWord) :=
  match m with
  | .clr => noOperand .clr
  | .pop => noOperand .pop
  | .rxs => noOperand .rxs
  | .rxe => noOperand .rxe
  | .rst => noOperand .rst
  | .push => oneOperand fun t => (byteOperand t).map fun b => wordsOf [.push b]
  | .rxb => oneOperand fun t => (byteOperand t).map fun b => wordsOf [.rxb b]
  | .enc => oneOperand fun t => (flagOperand t).map fun j => wordsOf [.enc j]
  | .rd => oneOperand fun t => (regOperand t).map fun r => wordsOf [.rd r]
  | .rawWord => oneOperand (numberOperand fun n => if n < 2 ^ 16 then some [BitVec.ofNat 16 n] else none)
  | .pushs => oneOperand (textOperand pushAll)
  | .pushb => byteOperands pushAll
  | .rxbs => byteOperands receiveAll
  | .popn => oneOperand (numberOperand fun n => some (wordsOf (popAll n)))
  | .encodeFrame => encodeOperands
  | .crc32 => oneOperand (textOperand crc32Commands)
  | .parity => oneOperand (textOperand parityCommands)
  | .rxframe => byteOperands receiveCommands

/-- The words of one source line; none for a line that R72 to R76, as log entry 17 reads them, do not allow. DESIGN CHOICE: a
line without a command, empty or a comment alone, stands for no words (log entry 17). -/
def assembleLine (line : List Char) : Option (List CmdWord) :=
  match tokens line.length line with
  | some [] => some []
  | some (.run cs :: args) =>
    match mnemonicTable.find? fun row => row.1.toList == cs with
    | some row => assembleOp row.2 args
    | none => none
  | _ => none

/-! ### Writing a response -/

/-- A digit in base 16; capitals are a DESIGN CHOICE (log entry 17). -/
def hexDigit (n : BitVec 4) : Char :=
  if n.toNat < 10 then Char.ofNat (48 + n.toNat) else Char.ofNat (55 + n.toNat)

/-- `-> err=E data=0xDDDDDDDD` (R72). -/
def responseLine (r : Response) : List Char :=
  "-> err=".toList ++ hexDigit r.err :: (" data=0x".toList ++
    (List.range 8).map fun k => hexDigit (r.data.extractLsb' (28 - 4 * k) 4))

end Sys2Proof.Machine
end

