-- ==== Sys2Proof/Safety.lean ====
section
/-! DEFINITION. The terms the claims use: the responses of a command sequence, the part of the buffer that holds the
message, the invariant of spec/10_state.md R26, and what a run that cannot stop is. -/

namespace Sys2Proof.Machine

/-- The responses to a sequence of command words, one each and in order, and the state after the last; none if the
model stopped on the way (spec/00_scope.md R5, spec/20_memory.md R51). -/
def session : List CmdWord → State → Option (List Response × State)
  | [], s => some ([], s)
  | w :: ws, s =>
    match issue w s with
    | .next t =>
      match t.rsp with
      | some r => (session ws t).map fun out => (r :: out.1, out.2)
      | none => none
    | .fault _ => none
    | .refused _ => none

/-- `BUF[0..n]`, the bytes at the indices below `n` (R6). -/
def bufPrefix (s : State) (n : Nat) : List Byte := (List.range n).map (readBuf s)

/-- Every byte of `BUF[0..n]` was written since the last hard reset. -/
def writtenBelow (s : State) (n : Nat) : Prop := ∀ a < n, (Memory.read s.buf a).isSome = true

/-- The engines hold the values of the byte sequence `p`, and `LEN` its length (spec/40_checksum_engine.md R88,
spec/41_parity_engine.md R99). -/
def enginesHold (s : State) (p : List Byte) : Prop :=
  p.length = s.len.toNat ∧ s.crc = crcRun crcInit p ∧ (s.row, s.col) = parAcc p

/-- A frame of this state was emitted to its end: phase DONE with no verdict, reached with all 16 header bytes gone
(spec/10_state.md R26 (e), "in DONE after an emission"). -/
def emissionDone (s : State) : Prop :=
  s.phase = .done ∧ s.vValid = false ∧ s.malformed = false ∧ s.hpos = 16

/-- The invariant of spec/10_state.md R26 (a) to (i), with the canonical form of the buffer, the range of `BUF_BYTES`
(R4), and the facts of R54 and R122 that its parts rest on. R26 (j) holds by the types (log entry 9). -/
structure BlockInv (s : State) : Prop where
  /-- R4: `BUF_BYTES` is at least 1. -/
  config : s.cfg.wf = true
  /-- The buffer is in its canonical form. -/
  canonical : Memory.wf s.buf = true
  /-- R40: nothing lies outside the buffer. -/
  inside : Memory.below s.cfg.bufBytes.toNat s.buf = true
  /-- (a) `ROW[31:8] = 0`. -/
  rowHigh : s.row.extractLsb' 8 24 = 0
  /-- (b) `HPOS <= 16`. -/
  headerCount : s.hpos.toNat ≤ 16
  /-- (c) In IDLE and ABSORB the counters and the header are 0. -/
  quiet : s.phase = .idle ∨ s.phase = .absorb → s.hpos = 0 ∧ s.ppos = 0 ∧ s.hdr = ⟨0, 0, 0, 0⟩
  /-- The engines hold some sequence of `LEN` bytes. -/
  engines : ∃ p, enginesHold s p
  /-- (d) In ABSORB the engines hold `BUF[0..LEN]`, which was written. -/
  absorbing : s.phase = .absorb →
    s.len.toNat ≤ s.cfg.bufBytes.toNat ∧ writtenBelow s s.len.toNat ∧ enginesHold s (bufPrefix s s.len.toNat)
  /-- (e) In EMIT and after an emission: the counters. -/
  emitted : s.phase = .emit ∨ emissionDone s →
    s.hdr.dataLen = s.len ∧ s.ppos.toNat ≤ s.hdr.dataLen.toNat ∧ (0 < s.ppos.toNat → s.hpos = 16)
  /-- In EMIT there is a byte left to emit, the payload fits and was written, the header is that of the pushed payload
  and the buffer holds what `encode` transmits (R54, R122, R123). -/
  emitting : s.phase = .emit →
    (s.hpos.toNat < 16 ∨ s.ppos.toNat < s.hdr.dataLen.toNat) ∧ s.len.toNat ≤ s.cfg.bufBytes.toNat ∧
      writtenBelow s s.len.toNat ∧
      ∃ p, enginesHold s p ∧ s.hdr = headerOf p ∧ bufPrefix s s.len.toNat = transmitted p s.injected
  /-- (f) In RXHDR the header is incomplete and no payload byte has come. -/
  headerPhase : s.phase = .rxhdr → s.hpos.toNat < 16 ∧ s.len = 0
  /-- (g) In RXPAY the header is complete and the payload is not. -/
  payloadPhase : s.phase = .rxpay → s.hpos = 16 ∧ s.len.toNat < s.hdr.dataLen.toNat
  /-- The receive path never moves `PPOS` (R18). -/
  receiveCounter : s.phase = .rxhdr ∨ s.phase = .rxpay → s.ppos = 0
  /-- While a frame is on its way there is no verdict of an earlier one. -/
  verdictAtEnd : s.phase ≠ .done → s.vValid = false ∧ s.malformed = false
  /-- (h) A malformed frame has no integrity verdict. -/
  malformedNoVerdict : s.malformed = true → s.vValid = false
  /-- (i) Without a verdict no BAD flag is set. -/
  noVerdictNoBad : s.vValid = false → s.crcBad = false ∧ s.rowBad = false ∧ s.colBad = false

/-- A step that cannot stop: it answers a next state. -/
def Goes (s : State) : Prop := ∃ t, step s = .next t

/-- The state may run the command: not halted, and the phase accepts it (spec/60_exceptions.md R158). -/
def ready (i : Instr) (s : State) : Prop := s.err = none ∧ accepts i s.phase = true

/-- The same state with a fault recorded and answered, nothing else changed (R159). -/
def faulted (c : FaultCode) (s : State) : State := { s with err := some c, rsp := some ⟨faultBits c, 0⟩ }

/-- CRC, ROW, COL and LEN are the same in both states. -/
def sameEngines (s t : State) : Prop := t.crc = s.crc ∧ t.row = s.row ∧ t.col = s.col ∧ t.len = s.len

/-- V_VALID, CRC_BAD, ROW_BAD and COL_BAD are the same in both states. -/
def sameVerdict (s t : State) : Prop :=
  t.vValid = s.vValid ∧ t.crcBad = s.crcBad ∧ t.rowBad = s.rowBad ∧ t.colBad = s.colBad

/-- Every byte of `BUF` reads the same in both states. -/
def sameBuffer (s t : State) : Prop := ∀ a, readBuf t a = readBuf s a

/-- Every byte of `BUF` but the one at `x` reads the same in both states. -/
def sameBufferBut (x : Nat) (s t : State) : Prop := ∀ a, a ≠ x → readBuf t a = readBuf s a

/-- What the verdict procedure leaves: the three comparisons in full, each recorded, and the code answered
(spec/45_receive_ops.md R133). -/
def verdictGiven (t : State) : Prop :=
  t.vValid = true ∧
  (t.crcBad = true ↔ t.crc ^^^ 0xFFFFFFFF ≠ t.hdr.crc32) ∧
  (t.rowBad = true ↔ t.row ≠ t.hdr.rowParity) ∧
  (t.colBad = true ↔ t.col[3] ++ t.col[2] ++ t.col[1] ++ t.col[0] ≠ t.hdr.colParity) ∧
  t.rsp = some ⟨0, if t.crcBad || t.rowBad || t.colBad then 2 else 1⟩

/-- The phase table of spec/60_exceptions.md R160, row by row: the phases a command can lead to, none for a blank. -/
def phaseTable : Phase → Instr → Option (List Phase)
  | .idle, .clr => some [.absorb]
  | .idle, .rxs => some [.rxhdr]
  | .absorb, .clr => some [.absorb]
  | .absorb, .push _ => some [.absorb]
  | .absorb, .enc _ => some [.emit]
  | .absorb, .rxs => some [.rxhdr]
  | .emit, .pop => some [.emit, .done]
  | .rxhdr, .rxb _ => some [.rxhdr, .rxpay, .done]
  | .rxhdr, .rxe => some [.done]
  | .rxpay, .rxb _ => some [.rxpay, .done]
  | .rxpay, .rxe => some [.done]
  | .done, .clr => some [.absorb]
  | .done, .rxs => some [.rxhdr]
  | p, .rd _ => some [p]
  | _, .rst => some [.idle]
  | _, _ => none

/-- The phases in which a message or a frame may be started (R160, columns CLR and RXS). -/
def canStart (s : State) : Prop := s.phase = .idle ∨ s.phase = .absorb ∨ s.phase = .done

/-- The word is a legal RD word or the RST word (spec/60_exceptions.md R158 step 1). -/
def servesHalted (w : CmdWord) : Prop :=
  (w &&& 0xFF00 = 0x8000 ∧ (w.extractLsb' 0 8).toNat ≤ 0x0D) ∨ w = 0xF000

end Sys2Proof.Machine
end

