-- ==== Sys2Proof/Certificates/Slice0/Obligations.lean ====
section
/-! DEFINITION. The statements for the provers, each with the rule of spec/ it formalises. A statement about every state
holds in states that no run reaches, unless it assumes the invariant `BlockInv` of spec/10_state.md R26. -/

open Sys2Proof Sys2Proof.Machine

/-! ### Encoding -/

/-- spec/30_encoding.md sections 1 and 2: the word of every legal command decodes to that command, every operand at every
value. -/
def Obligations.DecodeOfEncodeIsTheCommand : Prop :=
  ∀ i : Instr, i.WellFormed = true → decode (encode i) = .ok i

/-- spec/30_encoding.md section 2: a word that decodes is the word of the one command it decodes to, and that command is
legal, so no bit of a word is dropped. -/
def Obligations.EncodeOfDecodeIsTheWord : Prop :=
  ∀ (w : CmdWord) (i : Instr), decode w = .ok i → encode i = w ∧ i.WellFormed = true

/-- R64: the nine rows of the opcode map select exactly the nine commands, with their operand fields, and there are 533
legal words. -/
def Obligations.OpcodeMapSelectsCommands : Prop :=
  (∀ w : CmdWord,
    (decode w = .ok .clr ↔ w &&& 0xFFFF = 0x1000) ∧
    (∀ b, decode w = .ok (.push b) ↔ w &&& 0xFF00 = 0x2000 ∧ b = w.extractLsb' 0 8) ∧
    (∀ j, decode w = .ok (.enc j) ↔ w &&& 0xFFFE = 0x3000 ∧ j = w.getLsbD 0) ∧
    (decode w = .ok .pop ↔ w &&& 0xFFFF = 0x4000) ∧
    (decode w = .ok .rxs ↔ w &&& 0xFFFF = 0x5000) ∧
    (∀ b, decode w = .ok (.rxb b) ↔ w &&& 0xFF00 = 0x6000 ∧ b = w.extractLsb' 0 8) ∧
    (decode w = .ok .rxe ↔ w &&& 0xFFFF = 0x7000) ∧
    (∀ r, decode w = .ok (.rd r) ↔ w &&& 0xFF00 = 0x8000 ∧ r = w.extractLsb' 0 8 ∧ r.toNat ≤ 0x0D) ∧
    (decode w = .ok .rst ↔ w &&& 0xFFFF = 0xF000)) ∧
  ((List.range 65536).filter fun n => legalWord (BitVec.ofNat 16 n)).length = 533

/-- R68: which words are illegal, and that every illegal word raises IllegalCommand, or is answered Halted by a halted
block. -/
def Obligations.IllegalWordsAreExactlyReserved : Prop :=
  (∀ w : CmdWord, legalWord w = false ↔
    w.extractLsb' 12 4 ∈ [(0x0 : BitVec 4), 0x9, 0xA, 0xB, 0xC, 0xD, 0xE] ∨
    w.extractLsb' 8 4 ≠ 0 ∨
    (w.extractLsb' 12 4 ∈ [(0x1 : BitVec 4), 0x4, 0x5, 0x7, 0xF] ∧ w.extractLsb' 0 8 ≠ 0) ∨
    (w.extractLsb' 12 4 = 0x3 ∧ w.extractLsb' 1 7 ≠ 0) ∨
    (w.extractLsb' 12 4 = 0x8 ∧ 0x0D < (w.extractLsb' 0 8).toNat)) ∧
  legalWord 0x0000 = false ∧ legalWord 0xFFFF = false ∧
  ∀ (w : CmdWord) (s : State), legalWord w = false →
    (s.err = none → issue w s = .next { s with err := some .illegalCommand, rsp := some ⟨1, 0⟩ }) ∧
    (s.err ≠ none → issue w s = .next { s with rsp := some ⟨4, 0⟩ })

/-- spec/95_test_vectors.md section 2.5: words written out by the spec stand for the commands it says. -/
def Obligations.WrittenOutWordsDecode : Prop :=
  decode 0x1000 = .ok .clr ∧ decode 0x2041 = .ok (.push 0x41) ∧ decode 0x20FF = .ok (.push 0xFF) ∧
  decode 0x3000 = .ok (.enc false) ∧ decode 0x3001 = .ok (.enc true) ∧ decode 0x4000 = .ok .pop ∧
  decode 0x5000 = .ok .rxs ∧ decode 0x608B = .ok (.rxb 0x8B) ∧ decode 0x7000 = .ok .rxe ∧
  decode 0x8003 = .ok (.rd 0x03) ∧ decode 0x800D = .ok (.rd 0x0D) ∧ decode 0xF000 = .ok .rst

/-! ### The step -/

/-- spec/00_scope.md section 5, spec/60_exceptions.md section 5: a step runs the command that the next word decodes to,
answers an illegal word, takes a hard reset, and waits unchanged while the host presents nothing. The MODEL's choices in
it: the host's inputs stand in a list (log entry 1); after a hard reset the response port shows none (log entry 2), the
buffer lists nothing and `bufEpoch` is advanced (log entry 4); a hard reset is one input, taken in one step (log
entry 8). -/
def Obligations.StepRunsDecodedCommand : Prop :=
  (∀ (s : State) (w : CmdWord) (rest : List Input) (i : Instr),
    s.inputs = .command w :: rest → decode w = .ok i → step s = exec i { s with inputs := rest }) ∧
  (∀ (s : State) (w : CmdWord) (rest : List Input),
    s.inputs = .command w :: rest → legalWord w = false →
    step s = if s.err = none
      then .next { s with inputs := rest, err := some .illegalCommand, rsp := some ⟨1, 0⟩ }
      else .next { s with inputs := rest, rsp := some ⟨4, 0⟩ }) ∧
  (∀ (s : State) (rest : List Input),
    s.inputs = .hardReset :: rest →
    step s = .next { State.reset with cfg := s.cfg, bufEpoch := s.bufEpoch + 1, inputs := rest }) ∧
  (∀ s : State, s.inputs = [] → step s = .next s)

/-- R176: the reset values, both of the state after reset and of the state that the hard reset input leads to from any
state, and what RD reads directly after. -/
def Obligations.HardResetGivesResetValues : Prop :=
  ∀ t : State,
    (t = State.reset ∨ ∃ (s : State) (rest : List Input), s.inputs = .hardReset :: rest ∧ step s = .next t) →
    t.crc = 0xFFFFFFFF ∧ t.row = 0 ∧ (∀ k : Fin 8, t.col[k] = 0) ∧ t.len = 0 ∧ t.hdr.dataLen = 0 ∧
    t.hdr.crc32 = 0 ∧ t.hdr.rowParity = 0 ∧ t.hdr.colParity = 0 ∧ t.hpos = 0 ∧ t.ppos = 0 ∧ t.phase = .idle ∧
    t.injected = false ∧ t.vValid = false ∧ t.crcBad = false ∧ t.rowBad = false ∧ t.colBad = false ∧
    t.malformed = false ∧ t.err = none ∧
    exec (.rd 0x02) t = .next { t with rsp := some ⟨0, 0xFFFFFFFF⟩ } ∧
    exec (.rd 0x0D) t = .next { t with rsp := some ⟨0, t.cfg.bufBytes⟩ } ∧
    ∀ r : BitVec 8, r.toNat ≤ 0x0C → r ≠ 0x02 → exec (.rd r) t = .next { t with rsp := some ⟨0, 0⟩ }

/-! ### Faults, halting and the phase table -/

/-- spec/60_exceptions.md section 5: the checks of a command in their order, the first that fires deciding; when none fires
the command is executed and answered with `err = 0` (in every state that the invariant allows). -/
def Obligations.CheckOrderIsFixed : Prop :=
  ∀ (w : CmdWord) (s : State),
    (s.err ≠ none → ¬ servesHalted w → issue w s = .next { s with rsp := some ⟨4, 0⟩ }) ∧
    (s.err = none → legalWord w = false →
      issue w s = .next { s with err := some .illegalCommand, rsp := some ⟨1, 0⟩ }) ∧
    (∀ i, s.err = none → decode w = .ok i → phaseTable s.phase i = none →
      issue w s = .next { s with err := some .phaseError, rsp := some ⟨2, 0⟩ }) ∧
    (∀ b, s.err = none → decode w = .ok (.push b) → s.phase = .absorb → s.len = s.cfg.bufBytes →
      issue w s = .next { s with err := some .bufferFull, rsp := some ⟨3, 0⟩ }) ∧
    (∀ i, BlockInv s → decode w = .ok i → (s.err = none ∨ servesHalted w) → phaseTable s.phase i ≠ none →
      ¬ ((∃ b, i = .push b) ∧ s.len = s.cfg.bufBytes) →
      ∃ t r, issue w s = .next t ∧ t.rsp = some r ∧ r.err = 0)

/-- R160: the phase table. A blank is a PhaseError; an entry is accepted and leads to one of the phases it names; the
conditions on the last byte and on the 16th byte are the table's. -/
def Obligations.PhaseTableDecidesAndLeads : Prop :=
  ∀ (i : Instr) (s t : State), s.err = none → exec i s = .next t →
    (phaseTable s.phase i = none → t = { s with err := some .phaseError, rsp := some ⟨2, 0⟩ }) ∧
    (∀ ps, phaseTable s.phase i = some ps → t.phase ∈ ps ∧ t.err ≠ some .phaseError) ∧
    (i = .pop → s.phase = .emit → (t.phase = .done ↔ t.hpos = 16 ∧ t.ppos = t.hdr.dataLen)) ∧
    (∀ b, i = .rxb b → s.phase = .rxhdr → (t.phase = .rxhdr ↔ t.hpos ≠ 16)) ∧
    (∀ b, i = .rxb b → s.phase = .rxhdr → (t.phase = .rxpay ↔ t.hpos = 16 ∧ t.hdr.dataLen ≠ 0)) ∧
    (∀ b, i = .rxb b → s.phase = .rxpay → (t.phase = .done ↔ t.len = t.hdr.dataLen))

/-- R159: a fault, raised only while `ERR = 0`, writes its code to `ERR`, changes no other state element, answers
`(code, 0)`, and STATUS shows the code beside the phase in which it happened. -/
def Obligations.FaultChangesOnlyErr : Prop :=
  ∀ (w : CmdWord) (s t : State), issue w s = .next t → t.err ≠ s.err → t.err ≠ none →
    s.err = none ∧ ∃ c, t = { s with err := some c, rsp := some ⟨faultBits c, 0⟩ } ∧
      (faultBits c).toNat ∈ [1, 2, 3] ∧
      (statusWord t).extractLsb' 4 4 = faultBits c ∧ (statusWord t).extractLsb' 0 3 = phaseBits s.phase

/-- R155: a halted block answers every word but a legal RD or the RST word with `(4, 0)` and changes nothing, an illegal
word too; code 4 is never one that `ERR` stores. -/
def Obligations.HaltedBlockIgnoresCommands : Prop :=
  (∀ (w : CmdWord) (s : State), s.err ≠ none → ¬ servesHalted w →
    issue w s = .next { s with rsp := some ⟨4, 0⟩ }) ∧
  (∀ c : FaultCode, faultBits c ≠ 4)

/-- spec/60_exceptions.md section 8, spec/10_state.md section 4: `ERR` keeps the first fault's code until RST or hard reset,
which are the only ways out of the halted condition and lead to IDLE with the reset values. -/
def Obligations.ErrKeepsFirstFaultUntilReset : Prop :=
  ∀ (s t : State) (c : FaultCode), s.err = some c → step s = .next t →
    t.err = some c ∨
    (t.err = none ∧ t.phase = .idle ∧ (t.crc, t.row, t.col, t.len) = (0xFFFFFFFF, 0, Vector.replicate 8 0, 0) ∧
      t.hdr = ⟨0, 0, 0, 0⟩ ∧ t.hpos = 0 ∧ t.ppos = 0 ∧ t.injected = false ∧ t.vValid = false ∧ t.malformed = false ∧
      (t.crcBad, t.rowBad, t.colBad) = (false, false, false) ∧
      (s.inputs.head? = some (.command 0xF000) ∨ s.inputs.head? = some .hardReset))

/-- R62: every command is answered once; `err = 0` means executed, 1 to 3 faulted and not executed, 4 halted and ignored;
`data` is 0 whenever `err` is not, and 0 for CLR, PUSH, ENC, RXS and RST. -/
def Obligations.EveryCommandAnswersOnce : Prop :=
  ∀ (w : CmdWord) (s t : State), issue w s = .next t →
    ∃ r, t.rsp = some r ∧ r.err.toNat ≤ 4 ∧
      (r.err = 0 → (∃ i, decode w = .ok i ∧ phaseTable s.phase i ≠ none) ∧ (s.err = none ∨ servesHalted w)) ∧
      (1 ≤ r.err.toNat → r.err.toNat ≤ 3 →
        s.err = none ∧ ∃ c, r.err = faultBits c ∧ t = { s with err := some c, rsp := some r }) ∧
      (r.err = 4 → s.err ≠ none ∧ t = { s with rsp := some r }) ∧
      (r.err ≠ 0 → r.data = 0) ∧
      (∀ i, decode w = .ok i → (i = .clr ∨ (∃ b, i = .push b) ∨ (∃ j, i = .enc j) ∨ i = .rxs ∨ i = .rst) → r.data = 0)

/-! ### Registers -/

/-- R21: the fields of STATUS at their bit positions, with the reserved bits reading as 0. -/
def Obligations.StatusWordLayout : Prop :=
  ∀ s : State,
    (statusWord s).extractLsb' 0 3 =
      (match s.phase with
        | .idle => 0 | .absorb => 1 | .emit => 2 | .rxhdr => 3 | .rxpay => 4 | .done => 5) ∧
    (statusWord s).getLsbD 3 = s.injected ∧
    (statusWord s).extractLsb' 4 4 =
      (match s.err with
        | none => 0 | some .illegalCommand => 1 | some .phaseError => 2 | some .bufferFull => 3) ∧
    (statusWord s).getLsbD 8 = s.vValid ∧
    (statusWord s).getLsbD 9 = s.crcBad ∧
    (statusWord s).getLsbD 10 = s.rowBad ∧
    (statusWord s).getLsbD 11 = s.colBad ∧
    (statusWord s).getLsbD 12 = s.malformed ∧
    (statusWord s).extractLsb' 13 19 = 0

/-- R140 with the register numbers of R70: RD answers the register's value in every phase, halted or not, and changes
nothing; the status word's formula; an RD word with a reserved number or `z` not 0 is an illegal word. -/
def Obligations.ReadRegisterGivesItsValue : Prop :=
  ∀ s : State,
    (∀ r : BitVec 8, encode (.rd r) = 0x8000 ||| r.setWidth 16) ∧
    exec (.rd 0x00) s = .next { s with rsp := some ⟨0, statusWord s⟩ } ∧
    exec (.rd 0x01) s = .next { s with rsp := some ⟨0, s.len⟩ } ∧
    exec (.rd 0x02) s = .next { s with rsp := some ⟨0, s.crc⟩ } ∧
    exec (.rd 0x03) s = .next { s with rsp := some ⟨0, s.crc ^^^ 0xFFFFFFFF⟩ } ∧
    exec (.rd 0x04) s = .next { s with rsp := some ⟨0, s.row⟩ } ∧
    exec (.rd 0x05) s = .next { s with rsp := some ⟨0, s.col[3] ++ s.col[2] ++ s.col[1] ++ s.col[0]⟩ } ∧
    exec (.rd 0x06) s = .next { s with rsp := some ⟨0, s.col[7] ++ s.col[6] ++ s.col[5] ++ s.col[4]⟩ } ∧
    exec (.rd 0x07) s = .next { s with rsp := some ⟨0, s.hdr.dataLen⟩ } ∧
    exec (.rd 0x08) s = .next { s with rsp := some ⟨0, s.hdr.crc32⟩ } ∧
    exec (.rd 0x09) s = .next { s with rsp := some ⟨0, s.hdr.rowParity⟩ } ∧
    exec (.rd 0x0A) s = .next { s with rsp := some ⟨0, s.hdr.colParity⟩ } ∧
    exec (.rd 0x0B) s = .next { s with rsp := some ⟨0, BitVec.ofNat 32 s.hpos.toNat⟩ } ∧
    exec (.rd 0x0C) s = .next { s with rsp := some ⟨0, s.ppos⟩ } ∧
    exec (.rd 0x0D) s = .next { s with rsp := some ⟨0, s.cfg.bufBytes⟩ } ∧
    statusWord s =
      (phaseBits s.phase).setWidth 32 ||| ((BitVec.ofBool s.injected).setWidth 32 <<< 3) |||
        ((errBits s.err).setWidth 32 <<< 4) ||| ((BitVec.ofBool s.vValid).setWidth 32 <<< 8) |||
        ((BitVec.ofBool s.crcBad).setWidth 32 <<< 9) ||| ((BitVec.ofBool s.rowBad).setWidth 32 <<< 10) |||
        ((BitVec.ofBool s.colBad).setWidth 32 <<< 11) ||| ((BitVec.ofBool s.malformed).setWidth 32 <<< 12) ∧
    ∀ w : CmdWord, w.extractLsb' 12 4 = 0x8 → w.extractLsb' 8 4 ≠ 0 ∨ 0x0D < (w.extractLsb' 0 8).toNat →
      (s.err = none → issue w s = .next { s with err := some .illegalCommand, rsp := some ⟨1, 0⟩ }) ∧
      (s.err ≠ none → issue w s = .next { s with rsp := some ⟨4, 0⟩ })

/-- R141: RST gives every element but `BUF` its reset value, in every phase, halted or not; `0xF000` is its only word. -/
def Obligations.SoftResetRestoresResetValues : Prop :=
  encode .rst = 0xF000 ∧
  (∀ w : CmdWord, w.extractLsb' 12 4 = 0xF → w ≠ 0xF000 → legalWord w = false) ∧
  ∀ s : State,
    exec .rst s = .next
      { s with
        crc := 0xFFFFFFFF, row := 0, col := #v[0, 0, 0, 0, 0, 0, 0, 0], len := 0, hdr := ⟨0, 0, 0, 0⟩,
        hpos := 0, ppos := 0, phase := .idle, injected := false, err := none, vValid := false, crcBad := false,
        rowBad := false, colBad := false, malformed := false, rsp := some ⟨0, 0⟩ }

/-- spec/70_reset_and_hazards.md section 1: a state after RST and a state after hard reset answer every command sequence
alike, whatever the buffer holds (the power-on bytes are free values; log entry 4), and neither ever stops. -/
def Obligations.SoftAndHardResetIndistinguishable : Prop :=
  ∀ (s : State) (ws : List CmdWord),
    (session ws (softReset s)).isSome = true ∧
    (session ws (softReset s)).map Prod.fst = (session ws (hardReset s)).map Prod.fst

/-! ### The transmit path -/

/-- R120: CLR. -/
def Obligations.ClrStartsMessage : Prop :=
  encode .clr = 0x1000 ∧
  ∀ s : State, s.err = none →
    (canStart s →
      exec .clr s = .next
        { s with
          crc := 0xFFFFFFFF, row := 0, col := #v[0, 0, 0, 0, 0, 0, 0, 0], len := 0, hdr := ⟨0, 0, 0, 0⟩,
          hpos := 0, ppos := 0, injected := false, vValid := false, crcBad := false, rowBad := false,
          colBad := false, malformed := false, phase := .absorb, rsp := some ⟨0, 0⟩ }) ∧
    (s.phase = .emit ∨ s.phase = .rxhdr ∨ s.phase = .rxpay →
      exec .clr s = .next { s with err := some .phaseError, rsp := some ⟨2, 0⟩ })

/-- R121: PUSH. The next state is fixed field by field; every byte of the buffer but the one at `LEN` is as before. -/
def Obligations.PushAbsorbsOneByte : Prop :=
  ∀ (s : State) (b : Byte),
    encode (.push b) = 0x2000 ||| b.setWidth 16 ∧
    (s.err = none → s.phase ≠ .absorb →
      exec (.push b) s = .next { s with err := some .phaseError, rsp := some ⟨2, 0⟩ }) ∧
    (s.err = none → s.phase = .absorb → s.len = s.cfg.bufBytes →
      exec (.push b) s = .next { s with err := some .bufferFull, rsp := some ⟨3, 0⟩ }) ∧
    (s.err = none → s.phase = .absorb → s.len.toNat < s.cfg.bufBytes.toNat →
      ∃ t, exec (.push b) s = .next t ∧
        t.crc = crcByte s.crc b ∧
        t.row = s.row ^^^ b.setWidth 32 ∧
        (∀ k : Fin 8, t.col[k] = if k.val = s.len.toNat % 8 then s.col[k] ^^^ b else s.col[k]) ∧
        t.len.toNat = s.len.toNat + 1 ∧
        readBuf t s.len.toNat = b ∧ sameBufferBut s.len.toNat s t ∧
        t = { s with crc := t.crc, row := t.row, col := t.col, len := t.len, buf := t.buf, rsp := some ⟨0, 0⟩ })

/-- R122: ENC. The header is frozen from the engines, the engines are untouched, byte 0 is flipped only on request and only
if there is one, and for the pushed payload `p` the header and the buffer are those of `encode(p, j)`. -/
def Obligations.EncFreezesHeaderThenInjects : Prop :=
  ∀ (s : State) (j : Bool),
    encode (.enc j) = 0x3000 ||| (BitVec.ofBool j).setWidth 16 ∧
    (s.err = none → s.phase ≠ .absorb →
      exec (.enc j) s = .next { s with err := some .phaseError, rsp := some ⟨2, 0⟩ }) ∧
    (s.err = none → s.phase = .absorb → 1 ≤ s.cfg.bufBytes.toNat →
      ∃ t, exec (.enc j) s = .next t ∧
        t.hdr = ⟨s.len, s.crc ^^^ 0xFFFFFFFF, s.row, s.col[3] ++ s.col[2] ++ s.col[1] ++ s.col[0]⟩ ∧
        sameBufferBut 0 s t ∧
        (j = true ∧ s.len ≠ 0 → readBuf t 0 = readBuf s 0 ^^^ 0x01 ∧ t.injected = true) ∧
        (j = false ∨ s.len = 0 → readBuf t 0 = readBuf s 0 ∧ t.injected = false) ∧
        t = { s with
          hdr := t.hdr, buf := t.buf, injected := t.injected, hpos := 0, ppos := 0, phase := .emit,
          rsp := some ⟨0, 0⟩ } ∧
        ∀ p, enginesHold s p → bufPrefix s s.len.toNat = p →
          encodePacket p j = some (t.hdr, bufPrefix t s.len.toNat))

/-- R123: POP. The byte is the frame's at offset `HPOS + PPOS`, the marks and the phase follow the counters after the step,
and nothing else changes. -/
def Obligations.PopEmitsNextFrameByte : Prop :=
  encode .pop = 0x4000 ∧
  ∀ s : State, s.err = none →
    (s.phase ≠ .emit → exec .pop s = .next { s with err := some .phaseError, rsp := some ⟨2, 0⟩ }) ∧
    (s.phase = .emit → s.hpos.toNat < 16 ∨ s.ppos.toNat < s.cfg.bufBytes.toNat →
      ∃ t data, exec .pop s = .next t ∧
        t = { s with hpos := t.hpos, ppos := t.ppos, phase := t.phase, rsp := some ⟨0, data⟩ } ∧
        (s.hpos.toNat < 16 → t.hpos = s.hpos + 1 ∧ t.ppos = s.ppos ∧ data.getLsbD 9 = true ∧
          (hdrBytes s.hdr).toList[s.hpos.toNat]? = some (data.extractLsb' 0 8)) ∧
        (16 ≤ s.hpos.toNat → t.hpos = s.hpos ∧ t.ppos = s.ppos + 1 ∧ data.getLsbD 9 = false ∧
          data.extractLsb' 0 8 = readBuf s s.ppos.toNat) ∧
        (data.getLsbD 8 = true ↔ t.hpos = 16 ∧ t.ppos = s.hdr.dataLen) ∧
        t.phase = (if data.getLsbD 8 then .done else .emit) ∧
        data.extractLsb' 10 22 = 0 ∧
        (BlockInv s → (frame s.hdr (bufPrefix s s.hdr.dataLen.toNat))[s.hpos.toNat + s.ppos.toNat]? =
          some (data.extractLsb' 0 8)))

/-- spec/44_transmit_ops.md R124's claim (the spec derives it from R120 to R123): the command sequence of a payload that
fits sends exactly the frame of `encode(p, j)`, with its marks, and leaves the state that R124 names. -/
def Obligations.TransmitPathSendsEncodedFrame : Prop :=
  ∀ (p : List Byte) (j : Bool) (s : State),
    s.err = none → canStart s → p.length ≤ s.cfg.bufBytes.toNat →
    ∃ h q t, encodePacket p j = some (h, q) ∧
      session (wordsOf (encodeCommands p j)) s =
        some (List.replicate (p.length + 2) ⟨0, 0⟩ ++
          (frame h q).mapIdx fun k b => ⟨0, popData b (k + 1 == 16 + p.length) (decide (k < 16))⟩, t) ∧
      t.phase = .done ∧ t.err = none ∧ t.hdr = h ∧ bufPrefix t p.length = q ∧ t.len.toNat = p.length ∧ t.hpos = 16 ∧
      t.ppos.toNat = p.length ∧ t.injected = (j && decide (0 < p.length)) ∧
      t.crc = crcRun 0xFFFFFFFF p ∧ (t.row, t.col) = parAcc p ∧
      (t.vValid, t.crcBad, t.rowBad, t.colBad, t.malformed) = (false, false, false, false, false)

/-- spec/44_transmit_ops.md R124, last sentence, with R153: a payload longer than the buffer faults BufferFull on the first
PUSH that does not fit, and every later command is answered Halted. -/
def Obligations.OverlongPayloadFaultsBufferFull : Prop :=
  ∀ (p : List Byte) (j : Bool) (s : State),
    s.err = none → canStart s → s.cfg.bufBytes.toNat < p.length →
    ∃ t, session (wordsOf (.clr :: pushAll p ++ [.enc j])) s =
        some (List.replicate (1 + s.cfg.bufBytes.toNat) ⟨0, 0⟩ ++
          ⟨3, 0⟩ :: List.replicate (p.length - s.cfg.bufBytes.toNat) ⟨4, 0⟩, t) ∧
      t.err = some .bufferFull ∧ t.phase = .absorb ∧ t.len = s.cfg.bufBytes ∧
      t.crc = crcRun 0xFFFFFFFF (p.take s.cfg.bufBytes.toNat)

/-- spec/30_encoding.md R75 (the pseudo-instructions CRC32 and PARITY): their last responses are `computeCRC32` and the two
results of `compute2DParity`. -/
def Obligations.ChecksumAndParityReadouts : Prop :=
  ∀ (p : List Byte) (s : State), s.err = none → canStart s → p.length ≤ s.cfg.bufBytes.toNat →
    (∃ t, session (wordsOf (crc32Commands p)) s =
      some (List.replicate (p.length + 1) ⟨0, 0⟩ ++ [⟨0, computeCRC32 p⟩], t) ∧ t.phase = .absorb) ∧
    (∃ t, session (wordsOf (parityCommands p)) s =
      some (List.replicate (p.length + 1) ⟨0, 0⟩ ++ [⟨0, (compute2DParity p).1⟩, ⟨0, (compute2DParity p).2⟩], t) ∧
        t.phase = .absorb)

/-! ### The receive path -/

/-- R130: RXS. -/
def Obligations.RxsStartsReception : Prop :=
  encode .rxs = 0x5000 ∧
  ∀ s : State, s.err = none →
    (canStart s →
      exec .rxs s = .next
        { s with
          crc := 0xFFFFFFFF, row := 0, col := #v[0, 0, 0, 0, 0, 0, 0, 0], len := 0, hdr := ⟨0, 0, 0, 0⟩,
          hpos := 0, ppos := 0, injected := false, vValid := false, crcBad := false, rowBad := false,
          colBad := false, malformed := false, phase := .rxhdr, rsp := some ⟨0, 0⟩ }) ∧
    (s.phase = .emit ∨ s.phase = .rxhdr ∨ s.phase = .rxpay →
      exec .rxs s = .next { s with err := some .phaseError, rsp := some ⟨2, 0⟩ })

/-- R131: RXB. A header byte goes to its place in `HDR` and nowhere else; a payload byte goes to the engines and nowhere
else; the frame is complete on the 16th byte of an empty frame or on the byte number `HDR.LEN`, and gets its verdict
there. -/
def Obligations.RxbReceivesOneByte : Prop :=
  ∀ (s : State) (b : Byte),
    encode (.rxb b) = 0x6000 ||| b.setWidth 16 ∧
    (s.err = none → s.phase ≠ .rxhdr → s.phase ≠ .rxpay →
      exec (.rxb b) s = .next { s with err := some .phaseError, rsp := some ⟨2, 0⟩ }) ∧
    (s.err = none → s.phase = .rxhdr → s.hpos.toNat < 16 →
      ∃ t, exec (.rxb b) s = .next t ∧
        t.hpos = s.hpos + 1 ∧
        (∀ k, k < 16 → hdrByte t.hdr k = if k = s.hpos.toNat then b else hdrByte s.hdr k) ∧
        sameEngines s t ∧ sameBuffer s t ∧
        t = { s with
          hdr := t.hdr, hpos := t.hpos, phase := t.phase, vValid := t.vValid, crcBad := t.crcBad,
          rowBad := t.rowBad, colBad := t.colBad, rsp := t.rsp } ∧
        t.phase = (if t.hpos.toNat < 16 then .rxhdr else if t.hdr.dataLen = 0 then .done else .rxpay) ∧
        (t.phase ≠ .done → t.rsp = some ⟨0, 0⟩ ∧ sameVerdict s t) ∧
        (t.phase = .done → verdictGiven t)) ∧
    (s.err = none → s.phase = .rxpay →
      ∃ t, exec (.rxb b) s = .next t ∧
        t.crc = crcByte s.crc b ∧
        t.row = s.row ^^^ b.setWidth 32 ∧
        (∀ k : Fin 8, t.col[k] = if k.val = s.len.toNat % 8 then s.col[k] ^^^ b else s.col[k]) ∧
        t.len = s.len + 1 ∧ sameBuffer s t ∧
        t = { s with
          crc := t.crc, row := t.row, col := t.col, len := t.len, phase := t.phase, vValid := t.vValid,
          crcBad := t.crcBad, rowBad := t.rowBad, colBad := t.colBad, rsp := t.rsp } ∧
        t.phase = (if t.len = s.hdr.dataLen then .done else .rxpay) ∧
        (t.phase ≠ .done → t.rsp = some ⟨0, 0⟩ ∧ sameVerdict s t) ∧
        (t.phase = .done → verdictGiven t))

/-- R133: the RXB that completes a frame compares all three values in full, records each comparison, moves to DONE and
answers IntegrityMismatch or FrameOK with `err = 0` and `ERR` still 0. The registers are those after the byte. -/
def Obligations.VerdictComparesAllThreeFields : Prop :=
  ∀ (s t : State) (b : Byte), s.err = none → s.phase = .rxhdr ∨ s.phase = .rxpay →
    exec (.rxb b) s = .next t → t.phase = .done → verdictGiven t ∧ t.err = none

/-- R132: RXE. -/
def Obligations.RxeEndsReception : Prop :=
  encode .rxe = 0x7000 ∧
  ∀ s : State, s.err = none →
    (s.phase ≠ .rxhdr → s.phase ≠ .rxpay →
      exec .rxe s = .next { s with err := some .phaseError, rsp := some ⟨2, 0⟩ }) ∧
    (s.phase = .rxhdr → s.hpos = 0 → exec .rxe s = .next { s with phase := .done, rsp := some ⟨0, 4⟩ }) ∧
    (s.phase = .rxhdr → s.hpos ≠ 0 →
      exec .rxe s = .next { s with malformed := true, phase := .done, rsp := some ⟨0, 3⟩ }) ∧
    (s.phase = .rxpay → exec .rxe s = .next { s with malformed := true, phase := .done, rsp := some ⟨0, 3⟩ })

/-- spec/45_receive_ops.md R134's claim (the spec derives it): RXS and one RXB per byte answer the codes of `classify`, and
RXE, while the frame is incomplete, answers the code of `classify` for a closed stream. -/
def Obligations.ReceivePathClassifiesFrame : Prop :=
  ∀ (w : List Byte) (s : State), s.err = none → canStart s →
    (∀ hw : 16 ≤ w.length, w.length ≤ 16 + (hdrParse (headerPart w hw)).dataLen.toNat) →
    ∃ t, session (wordsOf (receiveCommands w)) s =
        some (⟨0, 0⟩ :: (List.range w.length).map fun i =>
          ⟨0, verdictCode (classify (w.take (i + 1)) false)⟩, t) ∧
      t.err = none ∧
      (classify w false = .more →
        ∃ u, exec .rxe t = .next u ∧ u.rsp = some ⟨0, verdictCode (classify w true)⟩)

/-- spec/45_receive_ops.md R134, last sentence: the frame of the transmit path, fed back unchanged, is FrameOK without an
injected fault, and an IntegrityMismatch in all three fields with one. -/
def Obligations.LoopbackVerdict : Prop :=
  ∀ (p : List Byte) (j : Bool) (h : Header) (q : List Byte) (s : State),
    encodePacket p j = some (h, q) → s.err = none → canStart s →
    ∃ rs t, session (wordsOf (receiveCommands (frame h q))) s = some (rs, t) ∧
      rs.getLast? = some ⟨0, if j && decide (0 < p.length) then 2 else 1⟩ ∧
      t.phase = .done ∧ t.vValid = true ∧ t.err = none ∧
      t.crcBad = (j && decide (0 < p.length)) ∧ t.rowBad = (j && decide (0 < p.length)) ∧
      t.colBad = (j && decide (0 < p.length))

/-- spec/60_exceptions.md section 3: what each verdict code says of the state after it. -/
def Obligations.VerdictCodesMatchFlags : Prop :=
  ∀ (i : Instr) (s t : State), BlockInv s → ready i s → (∃ b, i = .rxb b) ∨ i = .rxe → exec i s = .next t →
    ∃ v, t.rsp = some ⟨0, verdictCode v⟩ ∧ t.err = none ∧
      (v = .more ↔ t.phase ≠ .done) ∧
      (v = .more → sameVerdict s t ∧ t.malformed = s.malformed) ∧
      (v = .frameOK → (∃ b, i = .rxb b) ∧ t.vValid = true ∧ (t.crcBad, t.rowBad, t.colBad) = (false, false, false)) ∧
      (v = .integrityMismatch →
        (∃ b, i = .rxb b) ∧ t.vValid = true ∧ (t.crcBad || t.rowBad || t.colBad) = true) ∧
      (v = .malformedFrame →
        i = .rxe ∧ t.malformed = true ∧ (t.vValid, t.crcBad, t.rowBad, t.colBad) = (false, false, false, false)) ∧
      (v = .streamClosed →
        i = .rxe ∧ (t.malformed, t.vValid, t.crcBad, t.rowBad, t.colBad) = (false, false, false, false, false))

/-! ### The Checksum Engine -/

/-- R81: one shift step, and the spec's two example values. (The spec marks this step as its own, from general knowledge;
log entry 12.) -/
def Obligations.CrcBitShiftStep : Prop :=
  (∀ r : Word,
    (r.getLsbD 0 = true → crcBit r = (r >>> 1) ^^^ 0xEDB88320) ∧ (r.getLsbD 0 = false → crcBit r = r >>> 1)) ∧
  crcBit 0xFFFFFFBE = 0x7FFFFFDF ∧ crcBit 0x7FFFFFDF = 0xD2477CCF

/-- R82: absorbing a byte is eight shift steps after the byte entered the low bits, which is the same as consuming its bits
one by one, the least significant first. -/
def Obligations.CrcByteIsBitSerial : Prop :=
  (∀ (r : Word) (b : Byte), crcByte r b = crcBit^[8] (r ^^^ b.setWidth 32)) ∧
  (∀ (r : Word) (b : Byte),
    crcByte r b =
      (List.range 8).foldl
        (fun (c : Word) (k : Nat) =>
          (c >>> 1) ^^^ (if (c.getLsbD 0 ^^ b.getLsbD k) then (0xEDB88320 : Word) else 0)) r) ∧
  crcByte 0xFFFFFFFF 0x41 = 0x2C266174

/-- R86: the values that the document states. -/
def Obligations.CrcFixedPoints : Prop :=
  computeCRC32 [] = 0x00000000 ∧ computeCRC32 [0x41] = 0xD3D99E8B

/-- spec/40_checksum_engine.md R87 (a), derived by the spec: absorbing a concatenation is absorbing its parts in turn, and
the result can be read on the way and the absorption go on (R84). -/
def Obligations.CrcRunIsIncremental : Prop :=
  ∀ (r : Word) (u v : List Byte),
    crcRun r (u ++ v) = crcRun (crcRun r u) v ∧
    computeCRC32 (u ++ v) = crcOut (crcRun (crcOut (computeCRC32 u)) v)

/-- R87 (b), derived by the spec: linearity over XOR for sequences of equal length. -/
def Obligations.CrcRunIsLinearOverXor : Prop :=
  ∀ (r1 r2 : Word) (u v : List Byte), u.length = v.length →
    crcRun (r1 ^^^ r2) (List.zipWith (· ^^^ ·) u v) = crcRun r1 u ^^^ crcRun r2 v ∧
    computeCRC32 (List.zipWith (· ^^^ ·) u v) = computeCRC32 u ^^^ crcRun 0 v

/-- R87 (c), derived by the spec: absorbing a fixed byte is a bijection on words. -/
def Obligations.CrcByteIsBijective : Prop :=
  ∀ b : Byte, Function.Bijective fun r : Word => crcByte r b

/-- R87 (d), which the spec marks as general knowledge (spec/93_implementation_defined.md G2): flipping exactly one bit of a
message always changes its CRC-32. -/
def Obligations.SingleBitFlipChangesCrc : Prop :=
  ∀ (u v : List Byte) (b : Byte) (k : Nat), k < 8 →
    computeCRC32 (u ++ (b ^^^ ((1 : Byte) <<< k)) :: v) ≠ computeCRC32 (u ++ b :: v)

/-! ### The Parity Engine -/

/-- R92: the row parity is the zero-extended XOR of all bytes, 0 for the empty sequence, 3 for 01 02. -/
def Obligations.RowParityIsXorOfBytes : Prop :=
  (∀ s : List Byte, (compute2DParity s).1 = (s.foldr (· ^^^ ·) 0).setWidth 32) ∧
  (compute2DParity []).1 = 0 ∧ (compute2DParity [0x01, 0x02]).1 = 0x03

/-- R96 with R93: column `k` is the XOR of the bytes at the positions `i` with `i mod 8 = k`; the column parity holds columns
0 to 3 in that order from the least significant byte; the row is the XOR of all bytes. -/
def Obligations.ColumnIsXorOfItsClass : Prop :=
  ∀ s : List Byte,
    (∀ k : Fin 8, (parAcc s).2[k] =
      ((s.zipIdx.filter fun x => x.2 % 8 == k.val).map Prod.fst).foldl (· ^^^ ·) 0) ∧
    (compute2DParity s).2 = (parAcc s).2[3] ++ (parAcc s).2[2] ++ (parAcc s).2[1] ++ (parAcc s).2[0] ∧
    (compute2DParity s).1 = (s.foldl (· ^^^ ·) 0).setWidth 32

/-- R98 (a), in the exact form that the spec derives: swapping two bytes of one column class keeps the column parity;
swapping across classes changes it exactly when the bytes differ and one of the classes is transmitted; and R98 (b):
the row parity is the XOR of the eight columns. -/
def Obligations.SwappingBytesAndColumnParity : Prop :=
  (∀ s : List Byte, (compute2DParity s).1 = ((parAcc s).2.toList.foldl (· ^^^ ·) 0).setWidth 32) ∧
  (∀ (s : List Byte) (i j : Fin s.length),
    (i.val % 8 = j.val % 8 →
      (compute2DParity ((s.set i (s.get j)).set j (s.get i))).2 = (compute2DParity s).2) ∧
    (i.val % 8 ≠ j.val % 8 →
      ((compute2DParity ((s.set i (s.get j)).set j (s.get i))).2 ≠ (compute2DParity s).2 ↔
        s.get i ≠ s.get j ∧ (i.val % 8 < 4 ∨ j.val % 8 < 4))))

/-- R95, the consequence that the spec derives: a corruption at positions of the columns 4 to 7 alone leaves the column
parity unchanged. -/
def Obligations.LateColumnsAreInvisible : Prop :=
  ∀ s t : List Byte, s.length = t.length → (∀ i : Nat, i % 8 < 4 → s[i]? = t[i]?) →
    (compute2DParity s).2 = (compute2DParity t).2

/-! ### The Fault Injector and the Packet Codec -/

/-- R100: the injector flips bit 0 of byte 0 and nothing else; an empty payload stays as it is. -/
def Obligations.InjectorFlipsBitZeroOfByteZero : Prop :=
  inject [] = [] ∧
  (∀ (b : Byte) (p : List Byte), inject (b :: p) = (b ^^^ 0x01) :: p) ∧
  (∀ p : List Byte, (inject p).length = p.length) ∧
  inject [0x41] = [0x40]

/-- spec/42_fault_injector.md R102, derived by the spec: what an injection does to the three integrity values, and that
a second one undoes it (R100, derived there too). -/
def Obligations.InjectionChangesAllThree : Prop :=
  ∀ p : List Byte, p ≠ [] →
    (compute2DParity (inject p)).1 = (compute2DParity p).1 ^^^ 0x00000001 ∧
    (compute2DParity (inject p)).2 = (compute2DParity p).2 ^^^ 0x00000001 ∧
    computeCRC32 (inject p) ≠ computeCRC32 p ∧
    inject (inject p) = p

/-- R106: the wire encoding of a header: always 16 bytes, the fields in record order, each little-endian. -/
def Obligations.HeaderBytesAreLittleEndian : Prop :=
  (∀ (h : Header) (j : Nat), j < 4 →
    (hdrBytes h).toList[j]? = some (h.dataLen.extractLsb' (8 * j) 8) ∧
    (hdrBytes h).toList[4 + j]? = some (h.crc32.extractLsb' (8 * j) 8) ∧
    (hdrBytes h).toList[8 + j]? = some (h.rowParity.extractLsb' (8 * j) 8) ∧
    (hdrBytes h).toList[12 + j]? = some (h.colParity.extractLsb' (8 * j) 8)) ∧
  (∀ h : Header, (hdrBytes h).toList.length = 16) ∧
  (hdrBytes ⟨1, 0xD3D99E8B, 0x41, 0x41⟩).toList =
    [0x01, 0, 0, 0, 0x8B, 0x9E, 0xD9, 0xD3, 0x41, 0, 0, 0, 0x41, 0, 0, 0]

/-- spec/43_packet_codec.md R107's inverse property (the spec derives it): parsing and encoding undo each other, so every 16
bytes are a header; and placing 16 received bytes one at a time parses them (spec/45_receive_ops.md R131). -/
def Obligations.HeaderParseInvertsBytes : Prop :=
  (∀ h : Header, hdrParse (hdrBytes h) = h) ∧
  (∀ b : Vector Byte 16, hdrBytes (hdrParse b) = b) ∧
  (∀ (b : Vector Byte 16) (h : Header),
    (List.finRange 16).foldl (fun (acc : Header) (k : Fin 16) => setHdrByte acc k b[k]) h = hdrParse b)

/-- R110: `encode` computes the header from the given payload and never from the corrupted one; the transmitted payload has
the same length. -/
def Obligations.EncodeTakesHeaderFromOriginalPayload : Prop :=
  (∀ (p : List Byte) (j : Bool), p.length < 2 ^ 32 →
    ∃ h q, encodePacket p j = some (h, q) ∧ h.dataLen.toNat = p.length ∧ h.crc32 = computeCRC32 p ∧
      (h.rowParity, h.colParity) = compute2DParity p ∧ q = (if j then inject p else p) ∧ q.length = p.length ∧
      (frame h q).length = 16 + p.length) ∧
  encodePacket [0x41] false = some (⟨1, 0xD3D99E8B, 0x41, 0x41⟩, [0x41]) ∧
  encodePacket [0x41] true = some (⟨1, 0xD3D99E8B, 0x41, 0x41⟩, [0x40]) ∧
  encodePacket [] true = some (⟨0, 0, 0, 0⟩, [])

/-- spec/43_packet_codec.md R113's detection contract (the spec derives it): verification passes exactly when nothing was
injected, and an injection is seen by all three comparisons. -/
def Obligations.DetectionContract : Prop :=
  ∀ (p : List Byte) (j : Bool) (h : Header) (q : List Byte), encodePacket p j = some (h, q) →
    verify h q = ⟨j && decide (0 < p.length), j && decide (0 < p.length), j && decide (0 < p.length)⟩ ∧
    classify (frame h q) false = (if j && decide (0 < p.length) then .integrityMismatch else .frameOK)

/-! ### Whole-machine rules -/

/-- spec/10_state.md section 5, the dots of R28: what each command leaves unchanged whenever it answers a next state. -/
def Obligations.CommandsLeaveDottedStateAlone : Prop :=
  ∀ (i : Instr) (s t : State), exec i s = .next t →
    t.cfg = s.cfg ∧ t.bufEpoch = s.bufEpoch ∧ t.inputs = s.inputs ∧
    (i ≠ .rst → t.err = s.err ∨ s.err = none) ∧
    match i with
    | .clr => sameBuffer s t
    | .push _ =>
      t.hdr = s.hdr ∧ t.hpos = s.hpos ∧ t.ppos = s.ppos ∧ t.phase = s.phase ∧ t.injected = s.injected ∧
        sameVerdict s t ∧ t.malformed = s.malformed ∧ sameBufferBut s.len.toNat s t
    | .enc j =>
      sameEngines s t ∧ sameVerdict s t ∧ t.malformed = s.malformed ∧ sameBufferBut 0 s t ∧
        (j = false ∨ s.len = 0 → sameBuffer s t)
    | .pop =>
      sameEngines s t ∧ t.hdr = s.hdr ∧ t.injected = s.injected ∧ sameVerdict s t ∧ t.malformed = s.malformed ∧
        sameBuffer s t
    | .rxs => sameBuffer s t
    | .rxb _ => t.ppos = s.ppos ∧ t.injected = s.injected ∧ t.malformed = s.malformed ∧ sameBuffer s t
    | .rxe =>
      sameEngines s t ∧ t.hdr = s.hdr ∧ t.hpos = s.hpos ∧ t.ppos = s.ppos ∧ t.injected = s.injected ∧
        sameVerdict s t ∧ sameBuffer s t
    | .rd _ =>
      sameEngines s t ∧ t.hdr = s.hdr ∧ t.hpos = s.hpos ∧ t.ppos = s.ppos ∧ t.phase = s.phase ∧
        t.injected = s.injected ∧ sameVerdict s t ∧ t.malformed = s.malformed ∧ sameBuffer s t
    | .rst => sameBuffer s t

/-- R26 at reset: the invariant holds of the state after reset. -/
def Obligations.ResetStateMeetsInvariant : Prop := BlockInv State.reset

/-- R26: every step from a state that meets the invariant leads to one that does, whatever the host presents. -/
def Obligations.StepKeepsInvariant : Prop :=
  ∀ s t : State, BlockInv s → step s = .next t → BlockInv t

/-- spec/00_scope.md section 5 ("it is total because every 16-bit word has a defined outcome"): in a state that meets the
invariant the model never stops, whatever the host presents; so neither does a whole session. -/
def Obligations.InvariantStatesNeverStop : Prop :=
  ∀ s : State, BlockInv s → Goes s ∧ ∀ ws : List CmdWord, ∃ rs t, session ws s = some (rs, t) ∧ rs.length = ws.length ∧ BlockInv t

/-- spec/60_exceptions.md section 7 ("Phase EMIT cannot be left except by emitting the whole frame or by RST"; hard reset
is the other way, spec/70_reset_and_hazards.md section 1). -/
def Obligations.EmitLeftOnlyByLastByteOrReset : Prop :=
  ∀ s t : State, s.phase = .emit → step s = .next t → t.phase ≠ .emit →
    (s.inputs.head? = some (.command 0x4000) ∧ s.err = none ∧ t.phase = .done ∧ t.hpos = 16 ∧
      t.ppos = t.hdr.dataLen ∧ ∃ r, t.rsp = some r ∧ r.data.getLsbD 8 = true) ∨
    (t.phase = .idle ∧ (s.inputs.head? = some (.command 0xF000) ∨ s.inputs.head? = some .hardReset))

/-- spec/10_state.md section 1 (R14) and spec/43_packet_codec.md R111: once complete, a header keeps its value until the next
CLR, RXS or reset zeroes it. -/
def Obligations.HeaderFixedOnceComplete : Prop :=
  ∀ s t : State, s.phase = .emit ∨ s.phase = .rxpay ∨ s.phase = .done → step s = .next t →
    t.hdr = s.hdr ∨
    (t.hdr = ⟨0, 0, 0, 0⟩ ∧ (t.phase = .absorb ∨ t.phase = .rxhdr ∨ t.phase = .idle) ∧
      s.inputs.head? ∈ [some (.command 0x1000), some (.command 0x5000), some (.command 0xF000), some .hardReset])

/-- spec/20_memory.md section 4 (R49): every POP that is executed advances the frame offset by exactly one, so no offset is
emitted twice, and no counter wraps. -/
def Obligations.PopNeverRepeatsAnOffset : Prop :=
  ∀ s t : State, BlockInv s → ready .pop s → exec .pop s = .next t →
    t.hpos.toNat + t.ppos.toNat = s.hpos.toNat + s.ppos.toNat + 1 ∧
    t.hpos.toNat + t.ppos.toNat ≤ 16 + t.hdr.dataLen.toNat ∧
    (t.phase = .done ↔ t.hpos.toNat + t.ppos.toNat = 16 + t.hdr.dataLen.toNat)

/-- spec/20_memory.md section 6 (R54, derived by the spec): the byte that POP emits from the buffer and the byte that ENC
flips are bytes that were written, and no command's next state or response depends on the power-on bytes, which are a
free value of `bufEpoch` (log entry 4). -/
def Obligations.OnlyWrittenBytesAreRead : Prop :=
  ∀ s : State, BlockInv s →
    (s.err = none → s.phase = .emit → s.hpos = 16 →
      ∃ t b last, exec .pop s = .next t ∧ Memory.read s.buf s.ppos.toNat = some b ∧
        t.rsp = some ⟨0, popData b last false⟩) ∧
    (s.err = none → s.phase = .absorb → s.len ≠ 0 →
      ∃ t b, exec (.enc true) s = .next t ∧ Memory.read s.buf 0 = some b ∧
        Memory.read t.buf 0 = some (b ^^^ 0x01)) ∧
    (∀ (i : Instr) (epoch : Nat) (t : State), exec i s = .next t →
      exec i { s with bufEpoch := epoch } = .next { t with bufEpoch := epoch })

/-- R54 as the spec words it (derived by it), "before it was written since the last CLR": once CLR has started a message, the
responses to every further command sequence are the same whatever the buffer held before, written or not. -/
def Obligations.BufferBeforeClrIsUnobservable : Prop :=
  ∀ (s : State) (m : Memory) (epoch : Nat) (ws : List CmdWord), s.err = none → canStart s →
    (session (0x1000 :: ws) s).isSome = true ∧
    (session (0x1000 :: ws) { s with buf := m, bufEpoch := epoch }).map Prod.fst =
      (session (0x1000 :: ws) s).map Prod.fst

/-! ### The notation -/

/-- R73 to R76: the words of the pseudo-instructions, as expansions of a payload or a listing, and source lines that stand for
them. Not the spec's words but the MODEL's reading (log entry 17) are: that two hex digits in a listing are the byte they write,
which the clause on `listedByte` and the lines of RXBS and RXFRAME rest on (DEDUCED from spec/00_scope.md R6), and that PUSHB's
items may be written `0x48` and `'i'` as R72 writes a byte operand (DESIGN CHOICE). -/
def Obligations.PseudoInstructionsExpand : Prop :=
  (∀ p : List Byte, wordsOf (pushAll p) = p.map fun b => (0x2000 : CmdWord) ||| b.setWidth 16) ∧
  (∀ p : List Byte, wordsOf (receiveAll p) = p.map fun b => (0x6000 : CmdWord) ||| b.setWidth 16) ∧
  (∀ n : Nat, wordsOf (popAll n) = List.replicate n 0x4000) ∧
  (∀ (p : List Byte) (j : Bool),
    wordsOf (encodeCommands p j) =
      [0x1000] ++ p.map (fun b => (0x2000 : CmdWord) ||| b.setWidth 16) ++ [if j then 0x3001 else 0x3000] ++
        List.replicate (16 + p.length) 0x4000) ∧
  (∀ p : List Byte,
    wordsOf (crc32Commands p) = [0x1000] ++ p.map (fun b => (0x2000 : CmdWord) ||| b.setWidth 16) ++ [0x8003]) ∧
  (∀ p : List Byte,
    wordsOf (parityCommands p) =
      [0x1000] ++ p.map (fun b => (0x2000 : CmdWord) ||| b.setWidth 16) ++ [0x8004, 0x8005]) ∧
  (∀ w : List Byte, wordsOf (receiveCommands w) = 0x5000 :: w.map fun b => (0x6000 : CmdWord) ||| b.setWidth 16) ∧
  (∀ b : Byte,
    listedByte (.run [hexDigit (b.extractLsb' 4 4), hexDigit (b.extractLsb' 0 4)]) = some b) ∧
  assembleLine "PUSHS \"Hi!\"".toList = some (wordsOf (pushAll [0x48, 0x69, 0x21])) ∧
  assembleLine "PUSHB 0x48 'i'".toList = some (wordsOf (pushAll [0x48, 0x69])) ∧
  assembleLine "RXBS 31 0A C6".toList = some (wordsOf (receiveAll [0x31, 0x0A, 0xC6])) ∧
  assembleLine "POPN 17".toList = some (wordsOf (popAll 17)) ∧
  assembleLine "ENCODE \"Hi!\", 0 ; a comment".toList = some (wordsOf (encodeCommands [0x48, 0x69, 0x21] false)) ∧
  assembleLine "CRC32 \"Hi!\"".toList = some (wordsOf (crc32Commands [0x48, 0x69, 0x21])) ∧
  assembleLine "PARITY \"Hi!\"".toList = some (wordsOf (parityCommands [0x48, 0x69, 0x21])) ∧
  assembleLine "RXFRAME 0A 00".toList = some (wordsOf (receiveCommands [0x0A, 0x00])) ∧
  assembleLine "PUSH 'A'".toList = some [0x2041] ∧ assembleLine "RXB 65".toList = some [0x6041] ∧
  assembleLine "RD CRC_OUT".toList = some [0x8003]

/-! ### What the functions refuse -/

/-- spec/93_implementation_defined.md I5: `encode` is refused for a payload that the length field cannot count. That the model
answers none there is its reading of "refuse" (log entry 15). -/
def Obligations.EncodeRefusesUncountablePayloads : Prop :=
  ∀ (p : List Byte) (j : Bool), encodePacket p j = none ↔ 2 ^ 32 ≤ p.length
end

