-- ==== Sys2Proof/Laws/State.lean ====
section
/-! SUPPORT. What each named update of the state does to each field, true by rfl, so that no proof unfolds a record
update. -/

namespace Sys2Proof.Machine

/-! ### answer -/

@[simp] theorem answer_cfg (e : BitVec 4) (d : Word) (s : State) : (answer e d s).cfg = s.cfg := rfl
@[simp] theorem answer_crc (e : BitVec 4) (d : Word) (s : State) : (answer e d s).crc = s.crc := rfl
@[simp] theorem answer_row (e : BitVec 4) (d : Word) (s : State) : (answer e d s).row = s.row := rfl
@[simp] theorem answer_col (e : BitVec 4) (d : Word) (s : State) : (answer e d s).col = s.col := rfl
@[simp] theorem answer_len (e : BitVec 4) (d : Word) (s : State) : (answer e d s).len = s.len := rfl
@[simp] theorem answer_hdr (e : BitVec 4) (d : Word) (s : State) : (answer e d s).hdr = s.hdr := rfl
@[simp] theorem answer_buf (e : BitVec 4) (d : Word) (s : State) : (answer e d s).buf = s.buf := rfl
@[simp] theorem answer_bufEpoch (e : BitVec 4) (d : Word) (s : State) : (answer e d s).bufEpoch = s.bufEpoch := rfl
@[simp] theorem answer_hpos (e : BitVec 4) (d : Word) (s : State) : (answer e d s).hpos = s.hpos := rfl
@[simp] theorem answer_ppos (e : BitVec 4) (d : Word) (s : State) : (answer e d s).ppos = s.ppos := rfl
@[simp] theorem answer_phase (e : BitVec 4) (d : Word) (s : State) : (answer e d s).phase = s.phase := rfl
@[simp] theorem answer_injected (e : BitVec 4) (d : Word) (s : State) : (answer e d s).injected = s.injected := rfl
@[simp] theorem answer_err (e : BitVec 4) (d : Word) (s : State) : (answer e d s).err = s.err := rfl
@[simp] theorem answer_vValid (e : BitVec 4) (d : Word) (s : State) : (answer e d s).vValid = s.vValid := rfl
@[simp] theorem answer_crcBad (e : BitVec 4) (d : Word) (s : State) : (answer e d s).crcBad = s.crcBad := rfl
@[simp] theorem answer_rowBad (e : BitVec 4) (d : Word) (s : State) : (answer e d s).rowBad = s.rowBad := rfl
@[simp] theorem answer_colBad (e : BitVec 4) (d : Word) (s : State) : (answer e d s).colBad = s.colBad := rfl
@[simp] theorem answer_malformed (e : BitVec 4) (d : Word) (s : State) : (answer e d s).malformed = s.malformed := rfl
@[simp] theorem answer_inputs (e : BitVec 4) (d : Word) (s : State) : (answer e d s).inputs = s.inputs := rfl
@[simp] theorem answer_rsp (e : BitVec 4) (d : Word) (s : State) : (answer e d s).rsp = some ⟨e, d⟩ := rfl

/-! ### writeBuf -/

@[simp] theorem writeBuf_cfg (s : State) (a : Nat) (v : Byte) : (writeBuf s a v).cfg = s.cfg := rfl
@[simp] theorem writeBuf_crc (s : State) (a : Nat) (v : Byte) : (writeBuf s a v).crc = s.crc := rfl
@[simp] theorem writeBuf_row (s : State) (a : Nat) (v : Byte) : (writeBuf s a v).row = s.row := rfl
@[simp] theorem writeBuf_col (s : State) (a : Nat) (v : Byte) : (writeBuf s a v).col = s.col := rfl
@[simp] theorem writeBuf_len (s : State) (a : Nat) (v : Byte) : (writeBuf s a v).len = s.len := rfl
@[simp] theorem writeBuf_hdr (s : State) (a : Nat) (v : Byte) : (writeBuf s a v).hdr = s.hdr := rfl
@[simp] theorem writeBuf_buf (s : State) (a : Nat) (v : Byte) : (writeBuf s a v).buf = Memory.write s.buf a v := rfl
@[simp] theorem writeBuf_bufEpoch (s : State) (a : Nat) (v : Byte) : (writeBuf s a v).bufEpoch = s.bufEpoch := rfl
@[simp] theorem writeBuf_hpos (s : State) (a : Nat) (v : Byte) : (writeBuf s a v).hpos = s.hpos := rfl
@[simp] theorem writeBuf_ppos (s : State) (a : Nat) (v : Byte) : (writeBuf s a v).ppos = s.ppos := rfl
@[simp] theorem writeBuf_phase (s : State) (a : Nat) (v : Byte) : (writeBuf s a v).phase = s.phase := rfl
@[simp] theorem writeBuf_injected (s : State) (a : Nat) (v : Byte) : (writeBuf s a v).injected = s.injected := rfl
@[simp] theorem writeBuf_err (s : State) (a : Nat) (v : Byte) : (writeBuf s a v).err = s.err := rfl
@[simp] theorem writeBuf_vValid (s : State) (a : Nat) (v : Byte) : (writeBuf s a v).vValid = s.vValid := rfl
@[simp] theorem writeBuf_crcBad (s : State) (a : Nat) (v : Byte) : (writeBuf s a v).crcBad = s.crcBad := rfl
@[simp] theorem writeBuf_rowBad (s : State) (a : Nat) (v : Byte) : (writeBuf s a v).rowBad = s.rowBad := rfl
@[simp] theorem writeBuf_colBad (s : State) (a : Nat) (v : Byte) : (writeBuf s a v).colBad = s.colBad := rfl
@[simp] theorem writeBuf_malformed (s : State) (a : Nat) (v : Byte) : (writeBuf s a v).malformed = s.malformed := rfl
@[simp] theorem writeBuf_inputs (s : State) (a : Nat) (v : Byte) : (writeBuf s a v).inputs = s.inputs := rfl
@[simp] theorem writeBuf_rsp (s : State) (a : Nat) (v : Byte) : (writeBuf s a v).rsp = s.rsp := rfl

/-! ### start -/

@[simp] theorem start_cfg (s : State) : (start s).cfg = s.cfg := rfl
@[simp] theorem start_crc (s : State) : (start s).crc = crcInit := rfl
@[simp] theorem start_row (s : State) : (start s).row = 0 := rfl
@[simp] theorem start_col (s : State) : (start s).col = colsZero := rfl
@[simp] theorem start_len (s : State) : (start s).len = 0 := rfl
@[simp] theorem start_hdr (s : State) : (start s).hdr = ⟨0, 0, 0, 0⟩ := rfl
@[simp] theorem start_buf (s : State) : (start s).buf = s.buf := rfl
@[simp] theorem start_bufEpoch (s : State) : (start s).bufEpoch = s.bufEpoch := rfl
@[simp] theorem start_hpos (s : State) : (start s).hpos = 0 := rfl
@[simp] theorem start_ppos (s : State) : (start s).ppos = 0 := rfl
@[simp] theorem start_phase (s : State) : (start s).phase = s.phase := rfl
@[simp] theorem start_injected (s : State) : (start s).injected = false := rfl
@[simp] theorem start_err (s : State) : (start s).err = s.err := rfl
@[simp] theorem start_vValid (s : State) : (start s).vValid = false := rfl
@[simp] theorem start_crcBad (s : State) : (start s).crcBad = false := rfl
@[simp] theorem start_rowBad (s : State) : (start s).rowBad = false := rfl
@[simp] theorem start_colBad (s : State) : (start s).colBad = false := rfl
@[simp] theorem start_malformed (s : State) : (start s).malformed = false := rfl
@[simp] theorem start_inputs (s : State) : (start s).inputs = s.inputs := rfl
@[simp] theorem start_rsp (s : State) : (start s).rsp = s.rsp := rfl

/-! ### absorb -/

@[simp] theorem absorb_cfg (b : Byte) (s : State) : (absorb b s).cfg = s.cfg := rfl
@[simp] theorem absorb_crc (b : Byte) (s : State) : (absorb b s).crc = crcByte s.crc b := rfl
@[simp] theorem absorb_row (b : Byte) (s : State) : (absorb b s).row = (parStep (s.row, s.col) s.len.toNat b).1 := rfl
@[simp] theorem absorb_col (b : Byte) (s : State) : (absorb b s).col = (parStep (s.row, s.col) s.len.toNat b).2 := rfl
@[simp] theorem absorb_len (b : Byte) (s : State) : (absorb b s).len = s.len + 1 := rfl
@[simp] theorem absorb_hdr (b : Byte) (s : State) : (absorb b s).hdr = s.hdr := rfl
@[simp] theorem absorb_buf (b : Byte) (s : State) : (absorb b s).buf = s.buf := rfl
@[simp] theorem absorb_bufEpoch (b : Byte) (s : State) : (absorb b s).bufEpoch = s.bufEpoch := rfl
@[simp] theorem absorb_hpos (b : Byte) (s : State) : (absorb b s).hpos = s.hpos := rfl
@[simp] theorem absorb_ppos (b : Byte) (s : State) : (absorb b s).ppos = s.ppos := rfl
@[simp] theorem absorb_phase (b : Byte) (s : State) : (absorb b s).phase = s.phase := rfl
@[simp] theorem absorb_injected (b : Byte) (s : State) : (absorb b s).injected = s.injected := rfl
@[simp] theorem absorb_err (b : Byte) (s : State) : (absorb b s).err = s.err := rfl
@[simp] theorem absorb_vValid (b : Byte) (s : State) : (absorb b s).vValid = s.vValid := rfl
@[simp] theorem absorb_crcBad (b : Byte) (s : State) : (absorb b s).crcBad = s.crcBad := rfl
@[simp] theorem absorb_rowBad (b : Byte) (s : State) : (absorb b s).rowBad = s.rowBad := rfl
@[simp] theorem absorb_colBad (b : Byte) (s : State) : (absorb b s).colBad = s.colBad := rfl
@[simp] theorem absorb_malformed (b : Byte) (s : State) : (absorb b s).malformed = s.malformed := rfl
@[simp] theorem absorb_inputs (b : Byte) (s : State) : (absorb b s).inputs = s.inputs := rfl
@[simp] theorem absorb_rsp (b : Byte) (s : State) : (absorb b s).rsp = s.rsp := rfl

/-! ### freezeHeader -/

@[simp] theorem freezeHeader_cfg (s : State) : (freezeHeader s).cfg = s.cfg := rfl
@[simp] theorem freezeHeader_crc (s : State) : (freezeHeader s).crc = s.crc := rfl
@[simp] theorem freezeHeader_row (s : State) : (freezeHeader s).row = s.row := rfl
@[simp] theorem freezeHeader_col (s : State) : (freezeHeader s).col = s.col := rfl
@[simp] theorem freezeHeader_len (s : State) : (freezeHeader s).len = s.len := rfl
@[simp] theorem freezeHeader_hdr (s : State) : (freezeHeader s).hdr = ⟨s.len, crcOut s.crc, s.row, colLow s.col⟩ := rfl
@[simp] theorem freezeHeader_buf (s : State) : (freezeHeader s).buf = s.buf := rfl
@[simp] theorem freezeHeader_bufEpoch (s : State) : (freezeHeader s).bufEpoch = s.bufEpoch := rfl
@[simp] theorem freezeHeader_hpos (s : State) : (freezeHeader s).hpos = s.hpos := rfl
@[simp] theorem freezeHeader_ppos (s : State) : (freezeHeader s).ppos = s.ppos := rfl
@[simp] theorem freezeHeader_phase (s : State) : (freezeHeader s).phase = s.phase := rfl
@[simp] theorem freezeHeader_injected (s : State) : (freezeHeader s).injected = s.injected := rfl
@[simp] theorem freezeHeader_err (s : State) : (freezeHeader s).err = s.err := rfl
@[simp] theorem freezeHeader_vValid (s : State) : (freezeHeader s).vValid = s.vValid := rfl
@[simp] theorem freezeHeader_crcBad (s : State) : (freezeHeader s).crcBad = s.crcBad := rfl
@[simp] theorem freezeHeader_rowBad (s : State) : (freezeHeader s).rowBad = s.rowBad := rfl
@[simp] theorem freezeHeader_colBad (s : State) : (freezeHeader s).colBad = s.colBad := rfl
@[simp] theorem freezeHeader_malformed (s : State) : (freezeHeader s).malformed = s.malformed := rfl
@[simp] theorem freezeHeader_inputs (s : State) : (freezeHeader s).inputs = s.inputs := rfl
@[simp] theorem freezeHeader_rsp (s : State) : (freezeHeader s).rsp = s.rsp := rfl

/-! ### enter -/

@[simp] theorem enter_cfg (p : Phase) (s : State) : (enter p s).cfg = s.cfg := rfl
@[simp] theorem enter_crc (p : Phase) (s : State) : (enter p s).crc = s.crc := rfl
@[simp] theorem enter_row (p : Phase) (s : State) : (enter p s).row = s.row := rfl
@[simp] theorem enter_col (p : Phase) (s : State) : (enter p s).col = s.col := rfl
@[simp] theorem enter_len (p : Phase) (s : State) : (enter p s).len = s.len := rfl
@[simp] theorem enter_hdr (p : Phase) (s : State) : (enter p s).hdr = s.hdr := rfl
@[simp] theorem enter_buf (p : Phase) (s : State) : (enter p s).buf = s.buf := rfl
@[simp] theorem enter_bufEpoch (p : Phase) (s : State) : (enter p s).bufEpoch = s.bufEpoch := rfl
@[simp] theorem enter_hpos (p : Phase) (s : State) : (enter p s).hpos = s.hpos := rfl
@[simp] theorem enter_ppos (p : Phase) (s : State) : (enter p s).ppos = s.ppos := rfl
@[simp] theorem enter_phase (p : Phase) (s : State) : (enter p s).phase = p := rfl
@[simp] theorem enter_injected (p : Phase) (s : State) : (enter p s).injected = s.injected := rfl
@[simp] theorem enter_err (p : Phase) (s : State) : (enter p s).err = s.err := rfl
@[simp] theorem enter_vValid (p : Phase) (s : State) : (enter p s).vValid = s.vValid := rfl
@[simp] theorem enter_crcBad (p : Phase) (s : State) : (enter p s).crcBad = s.crcBad := rfl
@[simp] theorem enter_rowBad (p : Phase) (s : State) : (enter p s).rowBad = s.rowBad := rfl
@[simp] theorem enter_colBad (p : Phase) (s : State) : (enter p s).colBad = s.colBad := rfl
@[simp] theorem enter_malformed (p : Phase) (s : State) : (enter p s).malformed = s.malformed := rfl
@[simp] theorem enter_inputs (p : Phase) (s : State) : (enter p s).inputs = s.inputs := rfl
@[simp] theorem enter_rsp (p : Phase) (s : State) : (enter p s).rsp = s.rsp := rfl

/-! ### setVerdict -/

@[simp] theorem setVerdict_cfg (m : Mismatch) (s : State) : (setVerdict m s).cfg = s.cfg := rfl
@[simp] theorem setVerdict_crc (m : Mismatch) (s : State) : (setVerdict m s).crc = s.crc := rfl
@[simp] theorem setVerdict_row (m : Mismatch) (s : State) : (setVerdict m s).row = s.row := rfl
@[simp] theorem setVerdict_col (m : Mismatch) (s : State) : (setVerdict m s).col = s.col := rfl
@[simp] theorem setVerdict_len (m : Mismatch) (s : State) : (setVerdict m s).len = s.len := rfl
@[simp] theorem setVerdict_hdr (m : Mismatch) (s : State) : (setVerdict m s).hdr = s.hdr := rfl
@[simp] theorem setVerdict_buf (m : Mismatch) (s : State) : (setVerdict m s).buf = s.buf := rfl
@[simp] theorem setVerdict_bufEpoch (m : Mismatch) (s : State) : (setVerdict m s).bufEpoch = s.bufEpoch := rfl
@[simp] theorem setVerdict_hpos (m : Mismatch) (s : State) : (setVerdict m s).hpos = s.hpos := rfl
@[simp] theorem setVerdict_ppos (m : Mismatch) (s : State) : (setVerdict m s).ppos = s.ppos := rfl
@[simp] theorem setVerdict_phase (m : Mismatch) (s : State) : (setVerdict m s).phase = s.phase := rfl
@[simp] theorem setVerdict_injected (m : Mismatch) (s : State) : (setVerdict m s).injected = s.injected := rfl
@[simp] theorem setVerdict_err (m : Mismatch) (s : State) : (setVerdict m s).err = s.err := rfl
@[simp] theorem setVerdict_vValid (m : Mismatch) (s : State) : (setVerdict m s).vValid = true := rfl
@[simp] theorem setVerdict_crcBad (m : Mismatch) (s : State) : (setVerdict m s).crcBad = m.crcBad := rfl
@[simp] theorem setVerdict_rowBad (m : Mismatch) (s : State) : (setVerdict m s).rowBad = m.rowBad := rfl
@[simp] theorem setVerdict_colBad (m : Mismatch) (s : State) : (setVerdict m s).colBad = m.colBad := rfl
@[simp] theorem setVerdict_malformed (m : Mismatch) (s : State) : (setVerdict m s).malformed = s.malformed := rfl
@[simp] theorem setVerdict_inputs (m : Mismatch) (s : State) : (setVerdict m s).inputs = s.inputs := rfl
@[simp] theorem setVerdict_rsp (m : Mismatch) (s : State) : (setVerdict m s).rsp = s.rsp := rfl

/-! ### setMalformed -/

@[simp] theorem setMalformed_cfg (s : State) : (setMalformed s).cfg = s.cfg := rfl
@[simp] theorem setMalformed_crc (s : State) : (setMalformed s).crc = s.crc := rfl
@[simp] theorem setMalformed_row (s : State) : (setMalformed s).row = s.row := rfl
@[simp] theorem setMalformed_col (s : State) : (setMalformed s).col = s.col := rfl
@[simp] theorem setMalformed_len (s : State) : (setMalformed s).len = s.len := rfl
@[simp] theorem setMalformed_hdr (s : State) : (setMalformed s).hdr = s.hdr := rfl
@[simp] theorem setMalformed_buf (s : State) : (setMalformed s).buf = s.buf := rfl
@[simp] theorem setMalformed_bufEpoch (s : State) : (setMalformed s).bufEpoch = s.bufEpoch := rfl
@[simp] theorem setMalformed_hpos (s : State) : (setMalformed s).hpos = s.hpos := rfl
@[simp] theorem setMalformed_ppos (s : State) : (setMalformed s).ppos = s.ppos := rfl
@[simp] theorem setMalformed_phase (s : State) : (setMalformed s).phase = s.phase := rfl
@[simp] theorem setMalformed_injected (s : State) : (setMalformed s).injected = s.injected := rfl
@[simp] theorem setMalformed_err (s : State) : (setMalformed s).err = s.err := rfl
@[simp] theorem setMalformed_vValid (s : State) : (setMalformed s).vValid = s.vValid := rfl
@[simp] theorem setMalformed_crcBad (s : State) : (setMalformed s).crcBad = s.crcBad := rfl
@[simp] theorem setMalformed_rowBad (s : State) : (setMalformed s).rowBad = s.rowBad := rfl
@[simp] theorem setMalformed_colBad (s : State) : (setMalformed s).colBad = s.colBad := rfl
@[simp] theorem setMalformed_malformed (s : State) : (setMalformed s).malformed = true := rfl
@[simp] theorem setMalformed_inputs (s : State) : (setMalformed s).inputs = s.inputs := rfl
@[simp] theorem setMalformed_rsp (s : State) : (setMalformed s).rsp = s.rsp := rfl

/-! ### countHeaderByte -/

@[simp] theorem countHeaderByte_cfg (s : State) : (countHeaderByte s).cfg = s.cfg := rfl
@[simp] theorem countHeaderByte_crc (s : State) : (countHeaderByte s).crc = s.crc := rfl
@[simp] theorem countHeaderByte_row (s : State) : (countHeaderByte s).row = s.row := rfl
@[simp] theorem countHeaderByte_col (s : State) : (countHeaderByte s).col = s.col := rfl
@[simp] theorem countHeaderByte_len (s : State) : (countHeaderByte s).len = s.len := rfl
@[simp] theorem countHeaderByte_hdr (s : State) : (countHeaderByte s).hdr = s.hdr := rfl
@[simp] theorem countHeaderByte_buf (s : State) : (countHeaderByte s).buf = s.buf := rfl
@[simp] theorem countHeaderByte_bufEpoch (s : State) : (countHeaderByte s).bufEpoch = s.bufEpoch := rfl
@[simp] theorem countHeaderByte_hpos (s : State) : (countHeaderByte s).hpos = s.hpos + 1 := rfl
@[simp] theorem countHeaderByte_ppos (s : State) : (countHeaderByte s).ppos = s.ppos := rfl
@[simp] theorem countHeaderByte_phase (s : State) : (countHeaderByte s).phase = s.phase := rfl
@[simp] theorem countHeaderByte_injected (s : State) : (countHeaderByte s).injected = s.injected := rfl
@[simp] theorem countHeaderByte_err (s : State) : (countHeaderByte s).err = s.err := rfl
@[simp] theorem countHeaderByte_vValid (s : State) : (countHeaderByte s).vValid = s.vValid := rfl
@[simp] theorem countHeaderByte_crcBad (s : State) : (countHeaderByte s).crcBad = s.crcBad := rfl
@[simp] theorem countHeaderByte_rowBad (s : State) : (countHeaderByte s).rowBad = s.rowBad := rfl
@[simp] theorem countHeaderByte_colBad (s : State) : (countHeaderByte s).colBad = s.colBad := rfl
@[simp] theorem countHeaderByte_malformed (s : State) : (countHeaderByte s).malformed = s.malformed := rfl
@[simp] theorem countHeaderByte_inputs (s : State) : (countHeaderByte s).inputs = s.inputs := rfl
@[simp] theorem countHeaderByte_rsp (s : State) : (countHeaderByte s).rsp = s.rsp := rfl

/-! ### countPayloadByte -/

@[simp] theorem countPayloadByte_cfg (s : State) : (countPayloadByte s).cfg = s.cfg := rfl
@[simp] theorem countPayloadByte_crc (s : State) : (countPayloadByte s).crc = s.crc := rfl
@[simp] theorem countPayloadByte_row (s : State) : (countPayloadByte s).row = s.row := rfl
@[simp] theorem countPayloadByte_col (s : State) : (countPayloadByte s).col = s.col := rfl
@[simp] theorem countPayloadByte_len (s : State) : (countPayloadByte s).len = s.len := rfl
@[simp] theorem countPayloadByte_hdr (s : State) : (countPayloadByte s).hdr = s.hdr := rfl
@[simp] theorem countPayloadByte_buf (s : State) : (countPayloadByte s).buf = s.buf := rfl
@[simp] theorem countPayloadByte_bufEpoch (s : State) : (countPayloadByte s).bufEpoch = s.bufEpoch := rfl
@[simp] theorem countPayloadByte_hpos (s : State) : (countPayloadByte s).hpos = s.hpos := rfl
@[simp] theorem countPayloadByte_ppos (s : State) : (countPayloadByte s).ppos = s.ppos + 1 := rfl
@[simp] theorem countPayloadByte_phase (s : State) : (countPayloadByte s).phase = s.phase := rfl
@[simp] theorem countPayloadByte_injected (s : State) : (countPayloadByte s).injected = s.injected := rfl
@[simp] theorem countPayloadByte_err (s : State) : (countPayloadByte s).err = s.err := rfl
@[simp] theorem countPayloadByte_vValid (s : State) : (countPayloadByte s).vValid = s.vValid := rfl
@[simp] theorem countPayloadByte_crcBad (s : State) : (countPayloadByte s).crcBad = s.crcBad := rfl
@[simp] theorem countPayloadByte_rowBad (s : State) : (countPayloadByte s).rowBad = s.rowBad := rfl
@[simp] theorem countPayloadByte_colBad (s : State) : (countPayloadByte s).colBad = s.colBad := rfl
@[simp] theorem countPayloadByte_malformed (s : State) : (countPayloadByte s).malformed = s.malformed := rfl
@[simp] theorem countPayloadByte_inputs (s : State) : (countPayloadByte s).inputs = s.inputs := rfl
@[simp] theorem countPayloadByte_rsp (s : State) : (countPayloadByte s).rsp = s.rsp := rfl

/-! ### placeHeaderByte -/

@[simp] theorem placeHeaderByte_cfg (b : Byte) (s : State) : (placeHeaderByte b s).cfg = s.cfg := rfl
@[simp] theorem placeHeaderByte_crc (b : Byte) (s : State) : (placeHeaderByte b s).crc = s.crc := rfl
@[simp] theorem placeHeaderByte_row (b : Byte) (s : State) : (placeHeaderByte b s).row = s.row := rfl
@[simp] theorem placeHeaderByte_col (b : Byte) (s : State) : (placeHeaderByte b s).col = s.col := rfl
@[simp] theorem placeHeaderByte_len (b : Byte) (s : State) : (placeHeaderByte b s).len = s.len := rfl
@[simp] theorem placeHeaderByte_hdr (b : Byte) (s : State) : (placeHeaderByte b s).hdr = setHdrByte s.hdr s.hpos.toNat b := rfl
@[simp] theorem placeHeaderByte_buf (b : Byte) (s : State) : (placeHeaderByte b s).buf = s.buf := rfl
@[simp] theorem placeHeaderByte_bufEpoch (b : Byte) (s : State) : (placeHeaderByte b s).bufEpoch = s.bufEpoch := rfl
@[simp] theorem placeHeaderByte_hpos (b : Byte) (s : State) : (placeHeaderByte b s).hpos = s.hpos + 1 := rfl
@[simp] theorem placeHeaderByte_ppos (b : Byte) (s : State) : (placeHeaderByte b s).ppos = s.ppos := rfl
@[simp] theorem placeHeaderByte_phase (b : Byte) (s : State) : (placeHeaderByte b s).phase = s.phase := rfl
@[simp] theorem placeHeaderByte_injected (b : Byte) (s : State) : (placeHeaderByte b s).injected = s.injected := rfl
@[simp] theorem placeHeaderByte_err (b : Byte) (s : State) : (placeHeaderByte b s).err = s.err := rfl
@[simp] theorem placeHeaderByte_vValid (b : Byte) (s : State) : (placeHeaderByte b s).vValid = s.vValid := rfl
@[simp] theorem placeHeaderByte_crcBad (b : Byte) (s : State) : (placeHeaderByte b s).crcBad = s.crcBad := rfl
@[simp] theorem placeHeaderByte_rowBad (b : Byte) (s : State) : (placeHeaderByte b s).rowBad = s.rowBad := rfl
@[simp] theorem placeHeaderByte_colBad (b : Byte) (s : State) : (placeHeaderByte b s).colBad = s.colBad := rfl
@[simp] theorem placeHeaderByte_malformed (b : Byte) (s : State) : (placeHeaderByte b s).malformed = s.malformed := rfl
@[simp] theorem placeHeaderByte_inputs (b : Byte) (s : State) : (placeHeaderByte b s).inputs = s.inputs := rfl
@[simp] theorem placeHeaderByte_rsp (b : Byte) (s : State) : (placeHeaderByte b s).rsp = s.rsp := rfl

/-! ### rewind -/

@[simp] theorem rewind_cfg (injected : Bool) (s : State) : (rewind injected s).cfg = s.cfg := rfl
@[simp] theorem rewind_crc (injected : Bool) (s : State) : (rewind injected s).crc = s.crc := rfl
@[simp] theorem rewind_row (injected : Bool) (s : State) : (rewind injected s).row = s.row := rfl
@[simp] theorem rewind_col (injected : Bool) (s : State) : (rewind injected s).col = s.col := rfl
@[simp] theorem rewind_len (injected : Bool) (s : State) : (rewind injected s).len = s.len := rfl
@[simp] theorem rewind_hdr (injected : Bool) (s : State) : (rewind injected s).hdr = s.hdr := rfl
@[simp] theorem rewind_buf (injected : Bool) (s : State) : (rewind injected s).buf = s.buf := rfl
@[simp] theorem rewind_bufEpoch (injected : Bool) (s : State) : (rewind injected s).bufEpoch = s.bufEpoch := rfl
@[simp] theorem rewind_hpos (injected : Bool) (s : State) : (rewind injected s).hpos = 0 := rfl
@[simp] theorem rewind_ppos (injected : Bool) (s : State) : (rewind injected s).ppos = 0 := rfl
@[simp] theorem rewind_phase (injected : Bool) (s : State) : (rewind injected s).phase = s.phase := rfl
@[simp] theorem rewind_injected (injected : Bool) (s : State) : (rewind injected s).injected = injected := rfl
@[simp] theorem rewind_err (injected : Bool) (s : State) : (rewind injected s).err = s.err := rfl
@[simp] theorem rewind_vValid (injected : Bool) (s : State) : (rewind injected s).vValid = s.vValid := rfl
@[simp] theorem rewind_crcBad (injected : Bool) (s : State) : (rewind injected s).crcBad = s.crcBad := rfl
@[simp] theorem rewind_rowBad (injected : Bool) (s : State) : (rewind injected s).rowBad = s.rowBad := rfl
@[simp] theorem rewind_colBad (injected : Bool) (s : State) : (rewind injected s).colBad = s.colBad := rfl
@[simp] theorem rewind_malformed (injected : Bool) (s : State) : (rewind injected s).malformed = s.malformed := rfl
@[simp] theorem rewind_inputs (injected : Bool) (s : State) : (rewind injected s).inputs = s.inputs := rfl
@[simp] theorem rewind_rsp (injected : Bool) (s : State) : (rewind injected s).rsp = s.rsp := rfl

/-! ### softReset -/

@[simp] theorem softReset_cfg (s : State) : (softReset s).cfg = s.cfg := rfl
@[simp] theorem softReset_crc (s : State) : (softReset s).crc = crcInit := rfl
@[simp] theorem softReset_row (s : State) : (softReset s).row = 0 := rfl
@[simp] theorem softReset_col (s : State) : (softReset s).col = colsZero := rfl
@[simp] theorem softReset_len (s : State) : (softReset s).len = 0 := rfl
@[simp] theorem softReset_hdr (s : State) : (softReset s).hdr = ⟨0, 0, 0, 0⟩ := rfl
@[simp] theorem softReset_buf (s : State) : (softReset s).buf = s.buf := rfl
@[simp] theorem softReset_bufEpoch (s : State) : (softReset s).bufEpoch = s.bufEpoch := rfl
@[simp] theorem softReset_hpos (s : State) : (softReset s).hpos = 0 := rfl
@[simp] theorem softReset_ppos (s : State) : (softReset s).ppos = 0 := rfl
@[simp] theorem softReset_phase (s : State) : (softReset s).phase = .idle := rfl
@[simp] theorem softReset_injected (s : State) : (softReset s).injected = false := rfl
@[simp] theorem softReset_err (s : State) : (softReset s).err = none := rfl
@[simp] theorem softReset_vValid (s : State) : (softReset s).vValid = false := rfl
@[simp] theorem softReset_crcBad (s : State) : (softReset s).crcBad = false := rfl
@[simp] theorem softReset_rowBad (s : State) : (softReset s).rowBad = false := rfl
@[simp] theorem softReset_colBad (s : State) : (softReset s).colBad = false := rfl
@[simp] theorem softReset_malformed (s : State) : (softReset s).malformed = false := rfl
@[simp] theorem softReset_inputs (s : State) : (softReset s).inputs = s.inputs := rfl
@[simp] theorem softReset_rsp (s : State) : (softReset s).rsp = s.rsp := rfl

/-! ### hardReset -/

@[simp] theorem hardReset_cfg (s : State) : (hardReset s).cfg = s.cfg := rfl
@[simp] theorem hardReset_crc (s : State) : (hardReset s).crc = crcInit := rfl
@[simp] theorem hardReset_row (s : State) : (hardReset s).row = 0 := rfl
@[simp] theorem hardReset_col (s : State) : (hardReset s).col = colsZero := rfl
@[simp] theorem hardReset_len (s : State) : (hardReset s).len = 0 := rfl
@[simp] theorem hardReset_hdr (s : State) : (hardReset s).hdr = ⟨0, 0, 0, 0⟩ := rfl
@[simp] theorem hardReset_buf (s : State) : (hardReset s).buf = [] := rfl
@[simp] theorem hardReset_bufEpoch (s : State) : (hardReset s).bufEpoch = s.bufEpoch + 1 := rfl
@[simp] theorem hardReset_hpos (s : State) : (hardReset s).hpos = 0 := rfl
@[simp] theorem hardReset_ppos (s : State) : (hardReset s).ppos = 0 := rfl
@[simp] theorem hardReset_phase (s : State) : (hardReset s).phase = .idle := rfl
@[simp] theorem hardReset_injected (s : State) : (hardReset s).injected = false := rfl
@[simp] theorem hardReset_err (s : State) : (hardReset s).err = none := rfl
@[simp] theorem hardReset_vValid (s : State) : (hardReset s).vValid = false := rfl
@[simp] theorem hardReset_crcBad (s : State) : (hardReset s).crcBad = false := rfl
@[simp] theorem hardReset_rowBad (s : State) : (hardReset s).rowBad = false := rfl
@[simp] theorem hardReset_colBad (s : State) : (hardReset s).colBad = false := rfl
@[simp] theorem hardReset_malformed (s : State) : (hardReset s).malformed = false := rfl
@[simp] theorem hardReset_inputs (s : State) : (hardReset s).inputs = s.inputs := rfl
@[simp] theorem hardReset_rsp (s : State) : (hardReset s).rsp = none := rfl

/-! ### presentWord -/

@[simp] theorem presentWord_cfg (w : CmdWord) (s : State) : (presentWord w s).cfg = s.cfg := rfl
@[simp] theorem presentWord_crc (w : CmdWord) (s : State) : (presentWord w s).crc = s.crc := rfl
@[simp] theorem presentWord_row (w : CmdWord) (s : State) : (presentWord w s).row = s.row := rfl
@[simp] theorem presentWord_col (w : CmdWord) (s : State) : (presentWord w s).col = s.col := rfl
@[simp] theorem presentWord_len (w : CmdWord) (s : State) : (presentWord w s).len = s.len := rfl
@[simp] theorem presentWord_hdr (w : CmdWord) (s : State) : (presentWord w s).hdr = s.hdr := rfl
@[simp] theorem presentWord_buf (w : CmdWord) (s : State) : (presentWord w s).buf = s.buf := rfl
@[simp] theorem presentWord_bufEpoch (w : CmdWord) (s : State) : (presentWord w s).bufEpoch = s.bufEpoch := rfl
@[simp] theorem presentWord_hpos (w : CmdWord) (s : State) : (presentWord w s).hpos = s.hpos := rfl
@[simp] theorem presentWord_ppos (w : CmdWord) (s : State) : (presentWord w s).ppos = s.ppos := rfl
@[simp] theorem presentWord_phase (w : CmdWord) (s : State) : (presentWord w s).phase = s.phase := rfl
@[simp] theorem presentWord_injected (w : CmdWord) (s : State) : (presentWord w s).injected = s.injected := rfl
@[simp] theorem presentWord_err (w : CmdWord) (s : State) : (presentWord w s).err = s.err := rfl
@[simp] theorem presentWord_vValid (w : CmdWord) (s : State) : (presentWord w s).vValid = s.vValid := rfl
@[simp] theorem presentWord_crcBad (w : CmdWord) (s : State) : (presentWord w s).crcBad = s.crcBad := rfl
@[simp] theorem presentWord_rowBad (w : CmdWord) (s : State) : (presentWord w s).rowBad = s.rowBad := rfl
@[simp] theorem presentWord_colBad (w : CmdWord) (s : State) : (presentWord w s).colBad = s.colBad := rfl
@[simp] theorem presentWord_malformed (w : CmdWord) (s : State) : (presentWord w s).malformed = s.malformed := rfl
@[simp] theorem presentWord_inputs (w : CmdWord) (s : State) : (presentWord w s).inputs = .command w :: s.inputs := rfl
@[simp] theorem presentWord_rsp (w : CmdWord) (s : State) : (presentWord w s).rsp = s.rsp := rfl

/-! ### faulted -/

@[simp] theorem faulted_cfg (c : FaultCode) (s : State) : (faulted c s).cfg = s.cfg := rfl
@[simp] theorem faulted_crc (c : FaultCode) (s : State) : (faulted c s).crc = s.crc := rfl
@[simp] theorem faulted_row (c : FaultCode) (s : State) : (faulted c s).row = s.row := rfl
@[simp] theorem faulted_col (c : FaultCode) (s : State) : (faulted c s).col = s.col := rfl
@[simp] theorem faulted_len (c : FaultCode) (s : State) : (faulted c s).len = s.len := rfl
@[simp] theorem faulted_hdr (c : FaultCode) (s : State) : (faulted c s).hdr = s.hdr := rfl
@[simp] theorem faulted_buf (c : FaultCode) (s : State) : (faulted c s).buf = s.buf := rfl
@[simp] theorem faulted_bufEpoch (c : FaultCode) (s : State) : (faulted c s).bufEpoch = s.bufEpoch := rfl
@[simp] theorem faulted_hpos (c : FaultCode) (s : State) : (faulted c s).hpos = s.hpos := rfl
@[simp] theorem faulted_ppos (c : FaultCode) (s : State) : (faulted c s).ppos = s.ppos := rfl
@[simp] theorem faulted_phase (c : FaultCode) (s : State) : (faulted c s).phase = s.phase := rfl
@[simp] theorem faulted_injected (c : FaultCode) (s : State) : (faulted c s).injected = s.injected := rfl
@[simp] theorem faulted_err (c : FaultCode) (s : State) : (faulted c s).err = some c := rfl
@[simp] theorem faulted_vValid (c : FaultCode) (s : State) : (faulted c s).vValid = s.vValid := rfl
@[simp] theorem faulted_crcBad (c : FaultCode) (s : State) : (faulted c s).crcBad = s.crcBad := rfl
@[simp] theorem faulted_rowBad (c : FaultCode) (s : State) : (faulted c s).rowBad = s.rowBad := rfl
@[simp] theorem faulted_colBad (c : FaultCode) (s : State) : (faulted c s).colBad = s.colBad := rfl
@[simp] theorem faulted_malformed (c : FaultCode) (s : State) : (faulted c s).malformed = s.malformed := rfl
@[simp] theorem faulted_inputs (c : FaultCode) (s : State) : (faulted c s).inputs = s.inputs := rfl
@[simp] theorem faulted_rsp (c : FaultCode) (s : State) : (faulted c s).rsp = some ⟨faultBits c, 0⟩ := rfl

end Sys2Proof.Machine
end

