-- ==== Sys2Proof/Laws/Memory.lean ====
section
/-! SUPPORT. The laws of the payload buffer: read after write, and the canonical form kept by every operation. -/

namespace Sys2Proof.Machine

@[simp] theorem Memory.read_nil (a : Nat) : Memory.read [] a = none := rfl

theorem Memory.read_cons (x : Nat) (b : Byte) (m : Memory) (a : Nat) :
    Memory.read ((x, b) :: m) a = if a = x then some b else Memory.read m a := rfl

/-- A byte just written reads back. -/
@[simp] theorem Memory.read_write_same (m : Memory) (a : Nat) (v : Byte) :
    Memory.read (Memory.write m a v) a = some v := by
  induction m with
  | nil => simp [Memory.write, Memory.read]
  | cons cell m ih =>
    obtain ⟨x, b⟩ := cell
    unfold Memory.write
    split
    · simp [Memory.read]
    · split
      · simp [Memory.read, *]
      · simp [Memory.read_cons, *]

/-- A write leaves every other byte alone. -/
theorem Memory.read_write_other (m : Memory) {a x : Nat} (v : Byte) (h : x ≠ a) :
    Memory.read (Memory.write m a v) x = Memory.read m x := by
  induction m with
  | nil => simp [Memory.write, Memory.read, h]
  | cons cell m ih =>
    obtain ⟨y, b⟩ := cell
    unfold Memory.write
    split
    · simp [Memory.read_cons, h]
    · split
      · next heq => subst heq; simp [Memory.read_cons, h]
      · simp [Memory.read_cons, ih]

theorem Memory.wf_cons (x : Nat) (b : Byte) (m : Memory) :
    Memory.wf ((x, b) :: m) = true ↔ (∀ cell ∈ m.head?, x < cell.1) ∧ Memory.wf m = true := by
  cases m with
  | nil => simp [Memory.wf]
  | cons cell m => obtain ⟨y, c⟩ := cell; simp [Memory.wf]

/-- The first address after a write is the first one before it or the written one. -/
theorem Memory.head_write (m : Memory) (a : Nat) (v : Byte) :
    ∀ cell ∈ (Memory.write m a v).head?, cell.1 = a ∨ ∃ old ∈ m.head?, cell.1 = old.1 := by
  cases m with
  | nil => simp [Memory.write]
  | cons cell m =>
    obtain ⟨x, b⟩ := cell
    unfold Memory.write
    split
    · simp
    · split <;> simp

/-- A write keeps the canonical form. -/
theorem Memory.wf_write (m : Memory) (a : Nat) (v : Byte) (h : Memory.wf m = true) :
    Memory.wf (Memory.write m a v) = true := by
  induction m with
  | nil => rfl
  | cons cell m ih =>
    obtain ⟨x, b⟩ := cell
    obtain ⟨hx, hm⟩ := (Memory.wf_cons x b m).mp h
    unfold Memory.write
    split
    · next hlt => exact (Memory.wf_cons a v _).mpr ⟨by simpa using hlt, h⟩
    · next hge =>
      split
      · exact (Memory.wf_cons x v m).mpr ⟨hx, hm⟩
      · next hne =>
        refine (Memory.wf_cons x b _).mpr ⟨fun cell hc => ?_, ih hm⟩
        obtain h1 | ⟨old, ho, h2⟩ := Memory.head_write m a v cell hc
        · omega
        · have := hx old ho; omega

/-- A write below a bound keeps every address below it. -/
theorem Memory.below_write (m : Memory) (n a : Nat) (v : Byte) (h : Memory.below n m = true) (ha : a < n) :
    Memory.below n (Memory.write m a v) = true := by
  induction m with
  | nil => simp [Memory.below, Memory.write, ha]
  | cons cell m ih =>
    obtain ⟨x, b⟩ := cell
    simp only [Memory.below, List.all_cons, Bool.and_eq_true, decide_eq_true_eq] at h ih ⊢
    unfold Memory.write
    split
    · simp [ha, h.1, h.2]
    · split
      · simp [h.1, h.2]
      · simp [h.1, ih h.2]

/-- The canonical form is kept by `writeBuf`. -/
theorem writeBuf_wf (s : State) (a : Nat) (v : Byte) (h : Memory.wf s.buf = true) :
    Memory.wf (writeBuf s a v).buf = true := Memory.wf_write s.buf a v h

/-- `BUF[a]` reads back what was written to it. -/
@[simp] theorem readBuf_writeBuf_same (s : State) (a : Nat) (v : Byte) : readBuf (writeBuf s a v) a = v := by
  simp [readBuf]

/-- A write of `BUF[a]` leaves every other byte of the buffer as it was (spec/20_memory.md R40). -/
theorem readBuf_writeBuf_other (s : State) {a x : Nat} (v : Byte) (h : x ≠ a) :
    readBuf (writeBuf s a v) x = readBuf s x := by
  simp [readBuf, Memory.read_write_other s.buf v h]

/-- Reading depends on the written bytes and on the free power-on bytes alone. -/
theorem readBuf_congr {s t : State} (h : t.buf = s.buf) (he : t.bufEpoch = s.bufEpoch) (a : Nat) :
    readBuf t a = readBuf s a := by
  simp [readBuf, h, he]

/-! ### The updates that do not touch the buffer -/

@[simp] theorem readBuf_answer (e : BitVec 4) (d : Word) (s : State) (a : Nat) : readBuf (answer e d s) a = readBuf s a := rfl

@[simp] theorem readBuf_absorb (b : Byte) (s : State) (a : Nat) : readBuf (absorb b s) a = readBuf s a := rfl

@[simp] theorem readBuf_start (s : State) (a : Nat) : readBuf (start s) a = readBuf s a := rfl

@[simp] theorem readBuf_freezeHeader (s : State) (a : Nat) : readBuf (freezeHeader s) a = readBuf s a := rfl

@[simp] theorem readBuf_enter (p : Phase) (s : State) (a : Nat) : readBuf (enter p s) a = readBuf s a := rfl

@[simp] theorem readBuf_setVerdict (m : Mismatch) (s : State) (a : Nat) : readBuf (setVerdict m s) a = readBuf s a := rfl

@[simp] theorem readBuf_setMalformed (s : State) (a : Nat) : readBuf (setMalformed s) a = readBuf s a := rfl

@[simp] theorem readBuf_countHeaderByte (s : State) (a : Nat) : readBuf (countHeaderByte s) a = readBuf s a := rfl

@[simp] theorem readBuf_countPayloadByte (s : State) (a : Nat) : readBuf (countPayloadByte s) a = readBuf s a := rfl

@[simp] theorem readBuf_placeHeaderByte (b : Byte) (s : State) (a : Nat) : readBuf (placeHeaderByte b s) a = readBuf s a := rfl

@[simp] theorem readBuf_rewind (injected : Bool) (s : State) (a : Nat) : readBuf (rewind injected s) a = readBuf s a := rfl

@[simp] theorem readBuf_softReset (s : State) (a : Nat) : readBuf (softReset s) a = readBuf s a := rfl

@[simp] theorem readBuf_faulted (c : FaultCode) (s : State) (a : Nat) : readBuf (faulted c s) a = readBuf s a := rfl

@[simp] theorem readBuf_presentWord (w : CmdWord) (s : State) (a : Nat) : readBuf (presentWord w s) a = readBuf s a := rfl

/-- The prefix of the buffer depends on the bytes below its end alone. -/
theorem bufPrefix_congr {s t : State} {n : Nat} (h : ∀ a < n, readBuf t a = readBuf s a) :
    bufPrefix t n = bufPrefix s n := by
  simp only [bufPrefix]
  exact List.map_congr_left fun a ha => h a (List.mem_range.mp ha)

@[simp] theorem bufPrefix_length (s : State) (n : Nat) : (bufPrefix s n).length = n := by
  simp [bufPrefix]

theorem bufPrefix_succ (s : State) (n : Nat) : bufPrefix s (n + 1) = bufPrefix s n ++ [readBuf s n] := by
  simp [bufPrefix, List.range_succ]

/-- The buffer after reset is in its canonical form. -/
theorem reset_buf_wf : Memory.wf State.reset.buf = true := rfl

/-- The buffer after hard reset is in its canonical form. -/
theorem hardReset_buf_wf (s : State) : Memory.wf (hardReset s).buf = true := rfl

end Sys2Proof.Machine
end

