-- ==== Sys2Proof/Laws/Ops.lean ====
section
/-! SUPPORT. One lemma per shared operation that says once everything it can do. -/

namespace Sys2Proof.Machine

@[simp] theorem respond_eq (e : BitVec 4) (d : Word) (s : State) : respond e d s = .next (answer e d s) := rfl

@[simp] theorem respondHalted_eq (s : State) : respondHalted s = .next (answer 4 0 s) := rfl

/-- Taking a fault answers a next state in which only `ERR` and the response differ (R159). -/
@[simp] theorem raise_eq (c : FaultCode) (s : State) : raise c s = .next (faulted c s) := rfl

theorem halted_eq_false {s : State} : halted s = false ↔ s.err = none := by
  simp [halted]

theorem halted_eq_true {s : State} : halted s = true ↔ s.err ≠ none := by
  cases h : s.err <;> simp [halted, h]

/-- A command whose checks pass is its own rule. -/
theorem checked_ready {i : Instr} {s : State} (own : Out) (h : ready i s) : checked i s own = own := by
  simp [checked, halted, h.1, h.2]

/-- A command that may run on a halted block runs whatever `ERR` is, if the phase accepts it. -/
theorem checked_runsHalted {i : Instr} {s : State} (own : Out) (h : runsHalted i = true)
    (ha : accepts i s.phase = true) : checked i s own = own := by
  simp [checked, h, ha]

/-- A halted block answers Halted to every other command (R155). -/
theorem checked_halted {i : Instr} {s : State} (own : Out) (h : s.err ≠ none) (hr : runsHalted i = false) :
    checked i s own = .next (answer 4 0 s) := by
  simp [checked, halted_eq_true.mpr h, hr]

/-- A command in a phase that does not accept it takes PhaseError (R152). -/
theorem checked_wrong_phase {i : Instr} {s : State} (own : Out) (h : s.err = none)
    (ha : accepts i s.phase = false) : checked i s own = .next (faulted .phaseError s) := by
  simp [checked, halted, h, ha]

/-- Everything the common checks can do: answer Halted, take PhaseError, or run the command's own rule. -/
theorem checked_cases (i : Instr) (s : State) (own : Out) :
    (s.err ≠ none ∧ runsHalted i = false ∧ checked i s own = .next (answer 4 0 s)) ∨
    ((s.err = none ∨ runsHalted i = true) ∧ accepts i s.phase = false ∧
      checked i s own = .next (faulted .phaseError s)) ∨
    ((s.err = none ∨ runsHalted i = true) ∧ accepts i s.phase = true ∧ checked i s own = own) := by
  cases he : s.err <;> cases hr : runsHalted i <;> cases ha : accepts i s.phase <;>
    simp [checked, halted, he, hr, ha]

/-- An illegal word is answered Halted or takes IllegalCommand (R158 steps 1 and 2). -/
theorem illegalWord_eq (s : State) :
    illegalWord s = if s.err = none then .next (faulted .illegalCommand s) else .next (answer 4 0 s) := by
  cases h : s.err <;> simp [illegalWord, halted, h]

/-- A buffer read inside the buffer goes on with the byte. -/
theorem memRead_inside {s : State} {a : Nat} (k : Byte → Out) (h : a < s.cfg.bufBytes.toNat) :
    memRead s a k = k (readBuf s a) := by
  simp [memRead, h]

/-- A buffer read that goes on read the byte. -/
theorem memRead_next {s t : State} {a : Nat} {k : Byte → Out} (h : memRead s a k = .next t) :
    a < s.cfg.bufBytes.toNat ∧ k (readBuf s a) = .next t := by
  unfold memRead at h
  split at h
  · exact ⟨‹_›, h⟩
  · cases h

/-- A buffer write inside the buffer goes on with the byte written. -/
theorem memWrite_inside {s : State} {a : Nat} (v : Byte) (k : State → Out) (h : a < s.cfg.bufBytes.toNat) :
    memWrite s a v k = k (writeBuf s a v) := by
  simp [memWrite, h]

/-- A buffer write that goes on wrote the byte. -/
theorem memWrite_next {s t : State} {a : Nat} {v : Byte} {k : State → Out} (h : memWrite s a v k = .next t) :
    a < s.cfg.bufBytes.toNat ∧ k (writeBuf s a v) = .next t := by
  unfold memWrite at h
  split at h
  · exact ⟨‹_›, h⟩
  · cases h

/-- The verdict procedure's next state (R133). -/
theorem giveVerdict_eq (s : State) :
    giveVerdict s = .next (answer 0 (verdictCode (verdictOf (compareHeader s)))
      (enter .done (setVerdict (compareHeader s) s))) := rfl

/-- The end of ENC answers a next state (R122). -/
theorem beginEmit_eq (injected : Bool) (s : State) :
    beginEmit injected s = .next (answer 0 0 (enter .emit (rewind injected s))) := rfl

/-- The end of POP: DONE exactly when the counters say that the byte was the last (R123). -/
theorem emitByte_cases (byte : Byte) (hdr : Bool) (t : State) :
    (t.hpos = 16 ∧ t.ppos = t.hdr.dataLen ∧
      emitByte byte hdr t = .next (answer 0 (popData byte true hdr) (enter .done t))) ∨
    (¬(t.hpos = 16 ∧ t.ppos = t.hdr.dataLen) ∧
      emitByte byte hdr t = .next (answer 0 (popData byte false hdr) t)) := by
  by_cases h : t.hpos = 16 ∧ t.ppos = t.hdr.dataLen
  · exact .inl ⟨h.1, h.2, by simp only [emitByte, if_pos h, respond_eq]⟩
  · exact .inr ⟨h, by simp only [emitByte, if_neg h, respond_eq]⟩

/-- What follows a header byte: More, a verdict on the empty payload, or phase RXPAY (R131). -/
theorem afterHeaderByte_cases (t : State) :
    (t.hpos.toNat < 16 ∧ afterHeaderByte t = .next (answer 0 0 t)) ∨
    (16 ≤ t.hpos.toNat ∧ t.hdr.dataLen = 0 ∧ afterHeaderByte t = giveVerdict t) ∨
    (16 ≤ t.hpos.toNat ∧ t.hdr.dataLen ≠ 0 ∧ afterHeaderByte t = .next (answer 0 0 (enter .rxpay t))) := by
  by_cases h : t.hpos.toNat < 16
  · exact .inl ⟨h, by simp only [afterHeaderByte, if_pos h, respond_eq, verdictCode]⟩
  · by_cases h2 : t.hdr.dataLen = 0
    · exact .inr (.inl ⟨by omega, h2, by simp only [afterHeaderByte, if_neg h, if_pos h2]⟩)
    · exact .inr (.inr ⟨by omega, h2, by
        simp only [afterHeaderByte, if_neg h, if_neg h2, respond_eq, verdictCode]⟩)

/-- A payload byte completes the frame or does not (R131). -/
theorem receivePayloadByte_cases (b : Byte) (s : State) :
    ((absorb b s).len = s.hdr.dataLen ∧ receivePayloadByte b s = giveVerdict (absorb b s)) ∨
    ((absorb b s).len ≠ s.hdr.dataLen ∧ receivePayloadByte b s = .next (answer 0 0 (absorb b s))) := by
  by_cases h : (absorb b s).len = s.hdr.dataLen
  · exact .inl ⟨h, by simp only [receivePayloadByte, h, if_true]⟩
  · exact .inr ⟨h, by simp only [receivePayloadByte, h, if_false, respond_eq, verdictCode]⟩

/-- The host's next input is the head of its list. -/
theorem takeInput_cons {s : State} {x : Input} {rest : List Input} (h : s.inputs = x :: rest) :
    takeInput s = some (x, { s with inputs := rest }) := by
  simp [takeInput, h]

theorem takeInput_nil {s : State} (h : s.inputs = []) : takeInput s = none := by
  simp [takeInput, h]

/-- Hard reset is the reset state of the same instance, with the further inputs of the host (R176). -/
theorem hardReset_eq_reset (s : State) :
    hardReset s = { State.reset with cfg := s.cfg, bufEpoch := s.bufEpoch + 1, inputs := s.inputs } := rfl

/-- RST is the reset state that keeps the buffer (R177). -/
theorem softReset_eq_reset (s : State) :
    softReset s = { State.reset with
      cfg := s.cfg, buf := s.buf, bufEpoch := s.bufEpoch, inputs := s.inputs, rsp := s.rsp } := rfl

/-! ### The functions' own small lemmas -/

@[simp] theorem crcRun_nil (r : Word) : crcRun r [] = r := rfl

@[simp] theorem crcRun_cons (r : Word) (b : Byte) (s : List Byte) : crcRun r (b :: s) = crcRun (crcByte r b) s := rfl

@[simp] theorem parRun_nil (acc : Word × Cols) (i : Nat) : parRun acc i [] = acc := rfl

@[simp] theorem parRun_cons (acc : Word × Cols) (i : Nat) (b : Byte) (s : List Byte) :
    parRun acc i (b :: s) = parRun (parStep acc i b) (i + 1) s := rfl

@[simp] theorem parStep_row (acc : Word × Cols) (i : Nat) (b : Byte) :
    (parStep acc i b).1 = acc.1 ^^^ zext32 b := rfl

/-- Absorbing one more position leaves every other column alone (R91). -/
theorem parStep_col (acc : Word × Cols) (i : Nat) (b : Byte) (k : Fin 8) :
    (parStep acc i b).2[k] = if k = colIndex i then acc.2[k] ^^^ b else acc.2[k] := by
  simp only [parStep, Fin.getElem_fin, Vector.getElem_set, Fin.ext_iff]
  split
  · next h => simp [h]
  · next h => simp [Ne.symm h]

@[simp] theorem inject_length (p : List Byte) : (inject p).length = p.length := by
  cases p <;> simp [inject]

@[simp] theorem transmitted_length (p : List Byte) (j : Bool) : (transmitted p j).length = p.length := by
  cases j <;> simp [transmitted]

/-- Injecting twice is no injection (R100). -/
theorem injectByte_injectByte (b : Byte) : injectByte (injectByte b) = b := by
  simp [injectByte]

@[simp] theorem session_nil (s : State) : session [] s = some ([], s) := rfl

/-- One command of a session. -/
theorem session_cons {w : CmdWord} {ws : List CmdWord} {s t : State} {r : Response}
    (h : issue w s = .next t) (hr : t.rsp = some r) :
    session (w :: ws) s = (session ws t).map fun out => (r :: out.1, out.2) := by
  simp [session, h, hr]

/-- Two hex digits in a byte listing are the byte they write (R6, R73). -/
theorem listedByte_of_hexPair {cs : List Char} {b : Byte} (h : hexPair cs = some b) :
    listedByte (.run cs) = some b := by
  simp [listedByte, h]

/-- Any other run in a listing is read as a byte operand of R72. -/
theorem listedByte_of_not_hexPair {cs : List Char} (h : hexPair cs = none) :
    listedByte (.run cs) = byteOperand (.run cs) := by
  simp [listedByte, h]

/-- A register number selects exactly the register that has it (R70). -/
theorem regOf_regNumber (g : Reg) : regOf (regNumber g) = some g := by
  cases g <;> rfl

end Sys2Proof.Machine
end

