-- ==== Sys2Proof/Laws/Exec.lean ====
section
/-! SUPPORT. What a command that answers a next state has done: one inversion lemma for `exec`, and the equations of the
step. -/

namespace Sys2Proof.Machine

theorem hpos_eq_16 {x : BitVec 5} : x = 16 ↔ x.toNat = 16 := by
  constructor
  · rintro rfl; rfl
  · intro h; exact BitVec.eq_of_toNat_eq h

theorem hpos_succ {x : BitVec 5} (h : x.toNat < 16) : (x + 1).toNat = x.toNat + 1 := by
  rw [BitVec.toNat_add]
  change (x.toNat + 1) % 32 = _
  omega

/-- The state after a completed frame's last byte `t` (R133). -/
def afterVerdict (t : State) : State :=
  answer 0 (verdictCode (verdictOf (compareHeader t))) (enter .done (setVerdict (compareHeader t) t))

/-- The state after a POP of the byte `b`, which is the last or is not; `t` has its counter advanced (R123). -/
def afterPop (b : Byte) (last hdr : Bool) (t : State) : State :=
  answer 0 (popData b last hdr) (enter (if last then .done else .emit) t)

/-- The next states of a command's own rule, once the checks passed. -/
def OwnRule (i : Instr) (s t : State) : Prop :=
  match i with
  | .clr => t = answer 0 0 (enter .absorb (start s))
  | .push b =>
    s.phase = .absorb ∧
      (s.len = s.cfg.bufBytes ∧ t = faulted .bufferFull s ∨
        s.len ≠ s.cfg.bufBytes ∧ t = answer 0 0 (absorb b (writeBuf s s.len.toNat b)))
  | .enc j =>
    s.phase = .absorb ∧
      ((j = true ∧ s.len ≠ 0) ∧
          t = answer 0 0 (enter .emit
            (rewind true (writeBuf (freezeHeader s) 0 (injectByte (readBuf s 0))))) ∨
        ¬(j = true ∧ s.len ≠ 0) ∧ t = answer 0 0 (enter .emit (rewind false (freezeHeader s))))
  | .pop =>
    s.phase = .emit ∧ ∃ last : Bool,
      (s.hpos.toNat < 16 ∧ t = afterPop (hdrByte s.hdr s.hpos.toNat) last true (countHeaderByte s) ∧
          (last = true ↔ s.hpos + 1 = 16 ∧ s.ppos = s.hdr.dataLen) ∨
        16 ≤ s.hpos.toNat ∧ t = afterPop (readBuf s s.ppos.toNat) last false (countPayloadByte s) ∧
          (last = true ↔ s.hpos = 16 ∧ s.ppos + 1 = s.hdr.dataLen))
  | .rxs => t = answer 0 0 (enter .rxhdr (start s))
  | .rxb b =>
    (s.phase = .rxhdr ∧
        (s.hpos.toNat < 15 ∧ t = answer 0 0 (placeHeaderByte b s) ∨
          s.hpos.toNat = 15 ∧ (placeHeaderByte b s).hdr.dataLen = 0 ∧ t = afterVerdict (placeHeaderByte b s) ∨
          s.hpos.toNat = 15 ∧ (placeHeaderByte b s).hdr.dataLen ≠ 0 ∧
            t = answer 0 0 (enter .rxpay (placeHeaderByte b s)))) ∨
      (s.phase = .rxpay ∧
        (s.len + 1 = s.hdr.dataLen ∧ t = afterVerdict (absorb b s) ∨
          s.len + 1 ≠ s.hdr.dataLen ∧ t = answer 0 0 (absorb b s)))
  | .rxe =>
    (s.phase = .rxhdr ∨ s.phase = .rxpay) ∧
      ((s.phase = .rxhdr ∧ s.hpos = 0) ∧ t = answer 0 4 (enter .done s) ∨
        ¬(s.phase = .rxhdr ∧ s.hpos = 0) ∧ t = answer 0 3 (enter .done (setMalformed s)))
  | .rd r =>
    (∃ g, regOf r = some g ∧ t = answer 0 (regValue s g) s) ∨
      (regOf r = none ∧ s.err = none ∧ t = faulted .illegalCommand s)
  | .rst => t = answer 0 0 (softReset s)

theorem absorb_of_accepts {s : State} {b : Byte} (h : accepts (.push b) s.phase = true) : s.phase = .absorb := by
  cases e : s.phase <;> simp [accepts, e] at h ⊢

theorem emit_of_accepts {s : State} (h : accepts .pop s.phase = true) : s.phase = .emit := by
  cases e : s.phase <;> simp [accepts, e] at h ⊢

theorem rx_of_accepts {s : State} (h : accepts .rxe s.phase = true) : s.phase = .rxhdr ∨ s.phase = .rxpay := by
  cases e : s.phase <;> simp [accepts, e] at h ⊢

theorem execEnc_own {j : Bool} {s t : State} (hp : s.phase = .absorb)
    (h : (if j = true ∧ s.len ≠ 0 then
        memRead (freezeHeader s) 0 fun v =>
          memWrite (freezeHeader s) 0 (injectByte v) fun t => beginEmit true t
      else beginEmit false (freezeHeader s)) = .next t) : OwnRule (.enc j) s t := by
  refine ⟨hp, ?_⟩
  split at h
  · next e => exact .inl ⟨e, by have := (memWrite_next (memRead_next h).2).2; cases this; rfl⟩
  · next e => exact .inr ⟨e, by cases h; rfl⟩

theorem execPop_own {s t : State} (hp : s.phase = .emit)
    (h : (if s.hpos.toNat < 16 then emitByte (hdrByte s.hdr s.hpos.toNat) true (countHeaderByte s)
      else memRead s s.ppos.toNat fun v => emitByte v false (countPayloadByte s)) = .next t) :
    OwnRule .pop s t := by
  refine ⟨hp, ?_⟩
  split at h
  · next e =>
    rcases emitByte_cases (hdrByte s.hdr s.hpos.toNat) true (countHeaderByte s) with ⟨c1, c2, q⟩ | ⟨c, q⟩ <;>
      rw [q] at h <;> cases h
    · exact ⟨true, .inl ⟨e, rfl, by simpa using ⟨c1, c2⟩⟩⟩
    · exact ⟨false, .inl ⟨e, by rw [afterPop, ← hp]; rfl, by simpa using c⟩⟩
  · next e =>
    rcases emitByte_cases (readBuf s s.ppos.toNat) false (countPayloadByte s) with ⟨c1, c2, q⟩ | ⟨c, q⟩ <;>
      have h := (memRead_next h).2 <;> rw [q] at h <;> cases h
    · exact ⟨true, .inr ⟨by omega, rfl, by simpa using ⟨c1, c2⟩⟩⟩
    · exact ⟨false, .inr ⟨by omega, by rw [afterPop, ← hp]; rfl, by simpa using c⟩⟩

theorem execRxb_own {b : Byte} {s t : State} (hp : s.phase = .rxhdr ∨ s.phase = .rxpay)
    (h : (if s.phase = .rxhdr then receiveHeaderByte b s else receivePayloadByte b s) = .next t) :
    OwnRule (.rxb b) s t := by
  split at h
  · next hh =>
    refine .inl ⟨hh, ?_⟩
    unfold receiveHeaderByte at h
    split at h
    · next hlt =>
      have h5 := hpos_succ hlt
      rcases afterHeaderByte_cases (placeHeaderByte b s) with ⟨c, q⟩ | ⟨c, d, q⟩ | ⟨c, d, q⟩ <;>
        rw [q] at h <;> simp only [placeHeaderByte_hpos] at c
      · exact .inl ⟨by omega, by cases h; rfl⟩
      · exact .inr (.inl ⟨by omega, d, by cases h; rfl⟩)
      · exact .inr (.inr ⟨by omega, d, by cases h; rfl⟩)
    · cases h
  · next hh =>
    refine .inr ⟨hp.resolve_left hh, ?_⟩
    rcases receivePayloadByte_cases b s with ⟨c, q⟩ | ⟨c, q⟩ <;> rw [q] at h
    · exact .inl ⟨c, by cases h; rfl⟩
    · exact .inr ⟨c, by cases h; rfl⟩

/-- Everything a command that answers a next state can have done: answered Halted, taken PhaseError, or run its own
rule. -/
theorem exec_cases {i : Instr} {s t : State} (h : exec i s = .next t) :
    (s.err ≠ none ∧ runsHalted i = false ∧ t = answer 4 0 s) ∨
    (s.err = none ∧ accepts i s.phase = false ∧ t = faulted .phaseError s) ∨
    ((s.err = none ∨ runsHalted i = true) ∧ accepts i s.phase = true ∧ OwnRule i s t) := by
  have key : ∀ own : Out, checked i s own = .next t →
      (own = .next t → (s.err = none ∨ runsHalted i = true) → accepts i s.phase = true → OwnRule i s t) →
      ((s.err ≠ none ∧ runsHalted i = false ∧ t = answer 4 0 s) ∨
        (s.err = none ∧ accepts i s.phase = false ∧ t = faulted .phaseError s) ∨
        ((s.err = none ∨ runsHalted i = true) ∧ accepts i s.phase = true ∧ OwnRule i s t)) := by
    intro own h k
    rcases checked_cases i s own with ⟨a, b, e⟩ | ⟨a, b, e⟩ | ⟨a, b, e⟩ <;> rw [e] at h
    · exact .inl ⟨a, b, by cases h; rfl⟩
    · refine .inr (.inl ⟨?_, b, by cases h; rfl⟩)
      rcases a with a | a
      · exact a
      · cases i <;> simp [runsHalted, accepts] at a b
    · exact .inr (.inr ⟨a, b, k h a b⟩)
  cases i with
  | clr => exact key _ h fun h _ _ => by cases h; rfl
  | push b =>
    refine key _ h fun h _ a => ⟨absorb_of_accepts a, ?_⟩
    split at h
    · next e => exact .inl ⟨e, by cases h; rfl⟩
    · next e => exact .inr ⟨e, by have := (memWrite_next h).2; cases this; rfl⟩
  | enc j => exact key _ h fun h _ a => execEnc_own (absorb_of_accepts (b := 0) a) h
  | pop => exact key _ h fun h _ a => execPop_own (emit_of_accepts a) h
  | rxs => exact key _ h fun h _ _ => by cases h; rfl
  | rxb b => exact key _ h fun h _ a => execRxb_own (rx_of_accepts a) h
  | rxe =>
    refine key _ h fun h _ a => ⟨rx_of_accepts a, ?_⟩
    split at h
    · next e => exact .inl ⟨e, by cases h; rfl⟩
    · next e => exact .inr ⟨e, by cases h; rfl⟩
  | rd r =>
    refine key _ h fun h a _ => ?_
    split at h
    · next g hg => exact .inl ⟨g, hg, by cases h; rfl⟩
    · next hg => exact .inr ⟨hg, by simpa [runsHalted, hg] using a, by cases h; rfl⟩
  | rst => exact key _ h fun h _ _ => by cases h; rfl

/-- The phase table decides what the checks accept (R160). -/
theorem accepts_eq_false_iff (i : Instr) (p : Phase) : accepts i p = false ↔ phaseTable p i = none := by
  cases i <;> cases p <;> simp [accepts, phaseTable]

/-- A word that decodes is executed. -/
theorem issue_ok {w : CmdWord} {i : Instr} (h : decode w = .ok i) (s : State) : issue w s = exec i s := by
  simp [issue, h]

/-- A word that does not decode is an illegal word. -/
theorem issue_error {w : CmdWord} {e : Illegal} (h : decode w = .error e) (s : State) :
    issue w s = illegalWord s := by
  simp [issue, h]

/-- A step runs the word at the head of the inputs. -/
theorem step_command {s : State} {w : CmdWord} {rest : List Input} (h : s.inputs = .command w :: rest) :
    step s = issue w { s with inputs := rest } := by
  simp only [step, takeInput_cons h]

/-- A step takes a hard reset. -/
theorem step_hardReset {s : State} {rest : List Input} (h : s.inputs = .hardReset :: rest) :
    step s = .next (hardReset { s with inputs := rest }) := by
  simp only [step, takeInput_cons h]

/-- A step without an input waits. -/
theorem step_idle {s : State} (h : s.inputs = []) : step s = .next s := by
  simp only [step, takeInput_nil h]

end Sys2Proof.Machine
end

