-- ==== Sys2Proof/Laws/PerInstr.lean ====
section
/-! SUPPORT. Per-command facts about the encoding. The family CommandFormat: the word of every command has its
opcode in bits 15:12, zeros in bits 11:8 and its operand in bits 7:0 (spec/30_encoding.md R60, R61, R64). -/

namespace Sys2Proof.Laws

/-- The three fields of a command's word (R60). -/
def CommandFormat.Statement (i : Instr) : Prop :=
  opField (encode i) = i.opcode ∧ zField (encode i) = 0 ∧ immField (encode i) = i.operand

/-- Any opcode and any operand byte give a word with those fields. -/
theorem fields_of_word (op : BitVec 4) (b : BitVec 8) :
    opField ((op.setWidth 16 <<< 12) ||| b.setWidth 16) = op ∧
    zField ((op.setWidth 16 <<< 12) ||| b.setWidth 16) = 0 ∧
    immField ((op.setWidth 16 <<< 12) ||| b.setWidth 16) = b := by
  refine ⟨?_, ?_, ?_⟩ <;> ext k hk <;> interval_cases k <;> simp [opField, zField, immField]

theorem CommandFormat.clr : CommandFormat.Statement .clr := fields_of_word _ _

theorem CommandFormat.push (b : Byte) : CommandFormat.Statement (.push b) := fields_of_word _ _

theorem CommandFormat.enc (j : Bool) : CommandFormat.Statement (.enc j) := fields_of_word _ _

theorem CommandFormat.pop : CommandFormat.Statement .pop := fields_of_word _ _

theorem CommandFormat.rxs : CommandFormat.Statement .rxs := fields_of_word _ _

theorem CommandFormat.rxb (b : Byte) : CommandFormat.Statement (.rxb b) := fields_of_word _ _

theorem CommandFormat.rxe : CommandFormat.Statement .rxe := fields_of_word _ _

theorem CommandFormat.rd (r : BitVec 8) : CommandFormat.Statement (.rd r) := fields_of_word _ _

theorem CommandFormat.rst : CommandFormat.Statement .rst := fields_of_word _ _

end Sys2Proof.Laws
end

