-- ==== Sys2Proof/Tests/Slice0.lean ====
section
/-! SUPPORT. Tests against values that the spec writes out (spec/95_test_vectors.md, the vector's number in each comment),
and for every statement with hypotheses a witness that meets them. -/

namespace Sys2Proof.Tests

open Sys2Proof.Machine

/-! ### States -/

/-- The state after a word, if the block goes on. -/
def ran (w : CmdWord) (s : State) : Option State :=
  match issue w s with
  | .next t => some t
  | .fault _ => none
  | .refused _ => none

/-- The response to a word and STATUS after it. -/
def seen (w : CmdWord) (s : State) : Option (Option Response × Word) :=
  (ran w s).map fun t => (t.rsp, statusWord t)

/-- V62: after CLR. -/
def started : State := { State.reset with phase := .absorb }

/-- V63: after CLR, PUSH 0x41. -/
def pushed : State :=
  { State.reset with
    crc := 0x2C266174, row := 0x41, col := #v[0x41, 0, 0, 0, 0, 0, 0, 0], len := 1, buf := [(0, 0x41)],
    phase := .absorb }

/-- The header of V41. -/
def headerA : Header := ⟨1, 0xD3D99E8B, 0x41, 0x41⟩

/-- V64: after ENC 0, with `k` header bytes emitted. -/
def emitting (k : BitVec 5) : State := { pushed with hdr := headerA, hpos := k, phase := .emit }

/-- V75 with the first `k` bytes of an all-zero header. -/
def zerosReceived (k : BitVec 5) : State := { State.reset with phase := .rxhdr, hpos := k }

/-- V80: the header of V41 received. -/
def awaiting : State := { State.reset with phase := .rxpay, hdr := headerA, hpos := 16 }

/-- V81: the frame of V41 received. -/
def received : State := { pushed with hdr := headerA, hpos := 16, phase := .done, vValid := true, buf := [] }

/-- A block of one byte of buffer, full. -/
def full : State := { pushed with cfg := ⟨1⟩ }

/-- A block halted by the fault `c`. -/
def haltedBy (c : FaultCode) : State := { State.reset with err := some c }

/-! ### Decoding and encoding -/

/-- WellFormed refuses the first reserved register number (R61) and accepts the last legal one. -/
theorem test_wellFormed_rd : (Instr.rd 0x0E).WellFormed = false ∧ (Instr.rd 0x0D).WellFormed = true := by decide

/-- Section 2.5, the legal words, one or more per command. -/
theorem test_decode_words :
    decode 0x1000 = .ok .clr ∧ decode 0x2041 = .ok (.push 0x41) ∧ decode 0x2000 = .ok (.push 0x00) ∧
    decode 0x20FF = .ok (.push 0xFF) ∧ decode 0x3000 = .ok (.enc false) ∧ decode 0x3001 = .ok (.enc true) ∧
    decode 0x4000 = .ok .pop ∧ decode 0x5000 = .ok .rxs ∧ decode 0x608B = .ok (.rxb 0x8B) ∧
    decode 0x7000 = .ok .rxe ∧ decode 0x8000 = .ok (.rd 0x00) ∧ decode 0x8003 = .ok (.rd 0x03) ∧
    decode 0x800D = .ok (.rd 0x0D) ∧ decode 0xF000 = .ok .rst := by
  refine ⟨?_, ?_, ?_, ?_, ?_, ?_, ?_, ?_, ?_, ?_, ?_, ?_, ?_, ?_⟩ <;> rfl

/-- Section 2.5, illegal words of every reservation. -/
theorem test_illegal_words :
    ([0x0000, 0x1001, 0x1100, 0x2141, 0x3002, 0x6100, 0x800E, 0x9000, 0xF001, 0xFFFF] : List CmdWord).map
        (fun w => (legalWord w, seen w State.reset)) =
      List.replicate 10 (false, some (some ⟨1, 0⟩, 0x00000010)) := by decide

/-- R64: no word lies in two rows of the opcode map. -/
theorem test_rows_disjoint :
    opcodeMap.Pairwise fun a b => a.pattern &&& (a.mask &&& b.mask) ≠ b.pattern &&& (a.mask &&& b.mask) := by decide

/-- The table's row of RXB, read by the decoder and run by the step. -/
theorem test_table_word :
    decodeTableWord 16 0x608B = some (.rxb 0x8B) ∧ decodeTableWord 16 0x800E = none ∧
    step (State.reset.withFetchWord 16 0x1000) = .next { started with rsp := some ⟨0, 0⟩ } := by
  refine ⟨?_, ?_, ?_⟩ <;> rfl

/-! ### One command -/

/-- V69: CLR restarts a message. -/
theorem test_clr : ran 0x1000 pushed = some { started with buf := [(0, 0x41)], rsp := some ⟨0, 0⟩ } := by decide

/-- V70: CLR in EMIT. -/
theorem test_clr_phase : seen 0x1000 (emitting 0) = some (some ⟨2, 0⟩, 0x00000022) := by decide

/-- V63. -/
theorem test_push : ran 0x2041 started = some { pushed with rsp := some ⟨0, 0⟩ } := by decide

/-- V74 with one byte of buffer: the byte that does not fit changes only `ERR`. -/
theorem test_push_full :
    ran 0x2003 full = some { full with err := some .bufferFull, rsp := some ⟨3, 0⟩ } := by decide

/-- V65: the header is that of the uncorrupted byte. -/
theorem test_enc_inject :
    ran 0x3001 pushed =
      some { pushed with
        hdr := headerA, buf := [(0, 0x40)], injected := true, phase := .emit, rsp := some ⟨0, 0⟩ } := by decide

/-- V67: nothing to inject into. -/
theorem test_enc_empty : seen 0x3001 started = some (some ⟨0, 0⟩, 0x00000002) := by decide

/-- P1: the CRC's first byte, at offset 4. -/
theorem test_pop_header : seen 0x4000 (emitting 4) = some (some ⟨0, 0x28B⟩, 0x00000002) := by decide

/-- P1: the last byte. -/
theorem test_pop_last :
    ran 0x4000 (emitting 16) = some { emitting 16 with ppos := 1, phase := .done, rsp := some ⟨0, 0x141⟩ } := by decide

/-- V75. -/
theorem test_rxs : seen 0x5000 State.reset = some (some ⟨0, 0⟩, 0x00000003) := by decide

/-- V89. -/
theorem test_rxs_phase : seen 0x5000 (zerosReceived 0) = some (some ⟨2, 0⟩, 0x00000023) := by decide

/-- V76, and V79's last byte. -/
theorem test_rxb_header :
    ran 0x6001 (zerosReceived 0) =
      some { zerosReceived 1 with hdr := ⟨1, 0, 0, 0⟩, rsp := some ⟨0, 0⟩ } ∧
    seen 0x6000 (zerosReceived 15) = some (some ⟨0, 1⟩, 0x00000105) := by decide

/-- V81 and V82. -/
theorem test_rxb_payload :
    ran 0x6041 awaiting = some { received with rsp := some ⟨0, 1⟩ } ∧
    (ran 0x6040 awaiting).map (fun t => (t.rsp, statusWord t, t.crc, t.row)) =
      some (some ⟨0, 2⟩, 0x00000F05, 0x5B2151E2, 0x00000040) := by decide

/-- V77. -/
theorem test_rxe_closed : seen 0x7000 (zerosReceived 0) = some (some ⟨0, 4⟩, 0x00000005) := by decide

/-- V83. -/
theorem test_rxe_malformed : seen 0x7000 awaiting = some (some ⟨0, 3⟩, 0x00001005) := by decide

/-- V90. -/
theorem test_rd_reset :
    (List.range 14).map (fun n => (ran (0x8000 + BitVec.ofNat 16 n) State.reset).map (·.rsp)) =
      ([0, 0, 0xFFFFFFFF, 0, 0, 0, 0, 0, 0, 0, 0, 0, 0, 0x40] : List Word).map fun d => some (some ⟨0, d⟩) := by decide

/-- V91 and V94. -/
theorem test_rd_reserved :
    seen 0x800E State.reset = some (some ⟨1, 0⟩, 0x00000010) ∧
    seen 0x800E (haltedBy .phaseError) = some (some ⟨4, 0⟩, 0x00000020) := by decide

/-- V92's last two commands: RST recovers. -/
theorem test_rst :
    ran 0xF000 (haltedBy .phaseError) = some { State.reset with rsp := some ⟨0, 0⟩ } ∧
    seen 0x1000 (haltedBy .phaseError) = some (some ⟨4, 0⟩, 0x00000020) := by decide

/-! ### The functions -/

/-- V13 and V16. -/
theorem test_crc :
    computeCRC32 [0x31, 0x32, 0x33, 0x34, 0x35, 0x36, 0x37, 0x38, 0x39] = 0xCBF43926 ∧
    computeCRC32 [0, 1, 2, 3, 4, 5, 6, 7, 8, 9, 10, 11, 12, 13, 14, 15] = 0xCECEE288 := by decide +kernel

/-- V27. -/
theorem test_parity :
    parAcc [0x30, 0x31, 0x32, 0x33, 0x34, 0x35, 0x36, 0x37, 0x38, 0x39] =
      (0x01, #v[0x08, 0x08, 0x32, 0x33, 0x34, 0x35, 0x36, 0x37]) ∧
    compute2DParity [0x30, 0x31, 0x32, 0x33, 0x34, 0x35, 0x36, 0x37, 0x38, 0x39] = (0x01, 0x33320808) := by decide

/-- V46. -/
theorem test_encode :
    (encodePacket [0x80, 0xFF] true).map (fun x => frame x.1 x.2) =
      some [0x02, 0, 0, 0, 0x39, 0x65, 0x58, 0x57, 0x7F, 0, 0, 0, 0x80, 0xFF, 0, 0, 0x81, 0xFF] := by decide +kernel

/-- V52, V55, V56, V60. -/
theorem test_verify :
    verify ⟨1, 0xD3D99E8B, 0x41, 0x80000041⟩ [0x41] = ⟨false, false, true⟩ ∧
    classify [] true = .streamClosed ∧ classify [0x01] true = .malformedFrame ∧
    classify (List.replicate 16 0) false = .frameOK := by decide

/-- R72 to R74, lines of P3, and the response of P8. -/
theorem test_notation :
    assembleLine "RXB 0x8B ; from the wire".toList = some [0x608B] ∧
    assembleLine "PUSHS \"Hi!\"".toList = some [0x2048, 0x2069, 0x2021] ∧
    assembleLine "POPN 2".toList = some [0x4000, 0x4000] ∧
    assembleLine "RXBS 31 31 32 ; P3".toList = some [0x6031, 0x6031, 0x6032] ∧
    assembleLine "RXBS 0A 00 C6 A6 FF".toList = some [0x600A, 0x6000, 0x60C6, 0x60A6, 0x60FF] ∧
    responseLine ⟨0, 0xCBF43926⟩ = "-> err=0 data=0xCBF43926".toList := by decide

/-! ### Witnesses: states and operands that meet a statement's hypotheses, clause by clause -/

/-- A word that the host presents next. -/
def presented (w : CmdWord) (s : State) : State := { s with inputs := [.command w] }

/-- The state after reset meets the invariant. -/
theorem inv_reset : BlockInv State.reset where
  config := by decide
  canonical := by decide
  inside := by decide
  rowHigh := by decide
  headerCount := by decide
  quiet := by decide
  engines := ⟨[], by decide, by decide, by decide⟩
  absorbing := fun h => nomatch h
  emitted := fun h => h.elim (fun h => nomatch h) (fun h => nomatch h.1)
  emitting := fun h => nomatch h
  headerPhase := fun h => nomatch h
  payloadPhase := fun h => nomatch h
  receiveCounter := by decide
  verdictAtEnd := by decide
  malformedNoVerdict := by decide
  noVerdictNoBad := by decide

theorem engines_pushed : enginesHold pushed [0x41] := ⟨by decide, by decide, by decide⟩

theorem written_one (b : Byte) : ∀ a < 1, (Memory.read [(0, b)] a).isSome = true := by
  intro a ha
  obtain rfl : a = 0 := by omega
  rfl

/-- A full buffer of one byte in ABSORB meets the invariant. -/
theorem inv_full : BlockInv full where
  config := by decide
  canonical := by decide
  inside := by decide
  rowHigh := by decide
  headerCount := by decide
  quiet := by decide
  engines := ⟨[0x41], engines_pushed⟩
  absorbing := fun _ => ⟨by decide, written_one _, engines_pushed⟩
  emitted := fun h => h.elim (fun h => nomatch h) (fun h => nomatch h.1)
  emitting := fun h => nomatch h
  headerPhase := fun h => nomatch h
  payloadPhase := fun h => nomatch h
  receiveCounter := by decide
  verdictAtEnd := by decide
  malformedNoVerdict := by decide
  noVerdictNoBad := by decide

/-- An emission with no, 15 or all 16 header bytes gone and the payload byte to come meets the invariant. -/
theorem inv_emitting (k : BitVec 5) (hk : k = 0 ∨ k = 15 ∨ k = 16) : BlockInv (emitting k) where
  config := rfl
  canonical := rfl
  inside := rfl
  rowHigh := show (0x41 : Word).extractLsb' 8 24 = 0 by decide
  headerCount := by rcases hk with rfl | rfl | rfl <;> decide
  quiet := fun h => h.elim (fun h => nomatch h) (fun h => nomatch h)
  engines := ⟨[0x41], engines_pushed⟩
  absorbing := fun h => nomatch h
  emitted := fun _ => ⟨rfl, Nat.zero_le _, fun h => absurd h (Nat.not_lt_zero _)⟩
  emitting := fun _ => ⟨.inr (show (0 : Word).toNat < (1 : Word).toNat by decide),
    show (1 : Word).toNat ≤ (64 : Word).toNat by decide, written_one _, [0x41], engines_pushed,
    show headerA = headerOf [0x41] by decide, rfl⟩
  headerPhase := fun h => nomatch h
  payloadPhase := fun h => nomatch h
  receiveCounter := fun h => h.elim (fun h => nomatch h) (fun h => nomatch h)
  verdictAtEnd := fun _ => ⟨rfl, rfl⟩
  malformedNoVerdict := fun h => nomatch h
  noVerdictNoBad := fun _ => ⟨rfl, rfl, rfl⟩

/-- A reception with no or 15 header bytes come meets the invariant. -/
theorem inv_zerosReceived (k : BitVec 5) (hk : k = 0 ∨ k = 15) : BlockInv (zerosReceived k) where
  config := rfl
  canonical := rfl
  inside := rfl
  rowHigh := show (0 : Word).extractLsb' 8 24 = 0 by decide
  headerCount := by rcases hk with rfl | rfl <;> decide
  quiet := fun h => h.elim (fun h => nomatch h) (fun h => nomatch h)
  engines := ⟨[], rfl, rfl, rfl⟩
  absorbing := fun h => nomatch h
  emitted := fun h => h.elim (fun h => nomatch h) (fun h => nomatch h.1)
  emitting := fun h => nomatch h
  headerPhase := fun _ => by rcases hk with rfl | rfl <;> exact ⟨by decide, by decide⟩
  payloadPhase := fun h => nomatch h
  receiveCounter := fun _ => rfl
  verdictAtEnd := fun _ => ⟨rfl, rfl⟩
  malformedNoVerdict := fun h => nomatch h
  noVerdictNoBad := fun _ => ⟨rfl, rfl, rfl⟩

/-- A reception that lacks its last payload byte meets the invariant. -/
theorem inv_awaiting : BlockInv awaiting where
  config := by decide
  canonical := by decide
  inside := by decide
  rowHigh := by decide
  headerCount := by decide
  quiet := by decide
  engines := ⟨[], by decide, by decide, by decide⟩
  absorbing := fun h => nomatch h
  emitted := fun h => h.elim (fun h => nomatch h) (fun h => nomatch h.1)
  emitting := fun h => nomatch h
  headerPhase := fun h => nomatch h
  payloadPhase := by decide
  receiveCounter := by decide
  verdictAtEnd := by decide
  malformedNoVerdict := by decide
  noVerdictNoBad := by decide

theorem witness_DecodeOfEncodeIsTheCommand : (Instr.rd 0x0D).WellFormed = true := by decide

theorem witness_EncodeOfDecodeIsTheWord : decode 0x800D = .ok (.rd 0x0D) := rfl

theorem witness_IllegalWordsAreExactlyReserved :
    legalWord 0x800E = false ∧ State.reset.err = none ∧ (haltedBy .illegalCommand).err ≠ none := by decide

theorem witness_StepRunsDecodedCommand :
    (presented 0x800D State.reset).inputs = [.command 0x800D] ∧ decode 0x800D = .ok (.rd 0x0D) ∧
    legalWord 0x800E = false ∧ ({ State.reset with inputs := [.hardReset] } : State).inputs = [.hardReset] ∧
    State.reset.inputs = [] := ⟨rfl, rfl, by decide, rfl, rfl⟩

theorem witness_HardResetGivesResetValues :
    ∃ (s : State) (t : State), s.err ≠ none ∧ s.inputs = [.hardReset] ∧ step s = .next t :=
  ⟨{ haltedBy .phaseError with inputs := [.hardReset] }, _, by decide, rfl, rfl⟩

theorem witness_CheckOrderIsFixed :
    ((haltedBy .phaseError).err ≠ none ∧ ¬ servesHalted 0x800E ∧ ¬ servesHalted 0x1000) ∧
    (State.reset.err = none ∧ legalWord 0x800E = false) ∧
    (decode 0x4000 = .ok .pop ∧ phaseTable .idle .pop = none) ∧
    (full.err = none ∧ decode 0x2042 = .ok (.push 0x42) ∧ full.phase = .absorb ∧ full.len = full.cfg.bufBytes) ∧
    (BlockInv full ∧ decode 0x3001 = .ok (.enc true) ∧ phaseTable full.phase (.enc true) ≠ none ∧
      ¬ ∃ b, Instr.enc true = .push b) ∧
    (servesHalted 0x800D ∧ servesHalted 0xF000) := by
  refine ⟨⟨by decide, by simp [servesHalted], by simp [servesHalted]⟩, ⟨rfl, by decide⟩, ⟨rfl, rfl⟩,
    ⟨rfl, rfl, rfl, rfl⟩, ⟨inv_full, rfl, by decide, by simp⟩, by simp [servesHalted], by simp [servesHalted]⟩

theorem witness_PhaseTableDecidesAndLeads :
    (phaseTable State.reset.phase (.push 0) = none ∧ ∃ t, exec (.push 0) State.reset = .next t) ∧
    (∃ t, exec .pop (emitting 16) = .next t ∧ t.phase = .done) ∧
    (∃ t, exec .pop (emitting 15) = .next t ∧ t.phase = .emit) ∧
    (∃ t, exec (.rxb 0) (zerosReceived 14) = .next t ∧ t.phase = .rxhdr) ∧
    (∃ t, exec (.rxb 1) { awaiting with phase := .rxhdr, hpos := 15 } = .next t ∧ t.phase = .rxpay) ∧
    (∃ t, exec (.rxb 0x41) awaiting = .next t ∧ t.phase = .done) :=
  ⟨⟨rfl, _, rfl⟩, ⟨_, rfl, rfl⟩, ⟨_, rfl, rfl⟩, ⟨_, rfl, rfl⟩, ⟨_, rfl, by decide⟩, ⟨_, rfl, rfl⟩⟩

theorem witness_FaultChangesOnlyErr :
    (∃ t, issue 0x800E State.reset = .next t ∧ t.err = some .illegalCommand) ∧
    (∃ t, issue 0x2041 State.reset = .next t ∧ t.err = some .phaseError) ∧
    (∃ t, issue 0x2042 full = .next t ∧ t.err = some .bufferFull) :=
  ⟨⟨_, rfl, rfl⟩, ⟨_, rfl, rfl⟩, ⟨_, rfl, rfl⟩⟩

theorem witness_HaltedBlockIgnoresCommands :
    (haltedBy .bufferFull).err ≠ none ∧ ¬ servesHalted 0x800E ∧ ¬ servesHalted 0xF001 ∧ ¬ servesHalted 0x1000 := by
  simp [haltedBy, servesHalted]

theorem witness_ErrKeepsFirstFaultUntilReset :
    (∃ t, step (presented 0x0000 (haltedBy .bufferFull)) = .next t ∧ t.err = some .bufferFull) ∧
    (∃ t, step (presented 0xF000 (haltedBy .bufferFull)) = .next t ∧ t.err = none) :=
  ⟨⟨_, rfl, rfl⟩, ⟨_, rfl, rfl⟩⟩

theorem witness_EveryCommandAnswersOnce :
    (∃ t, issue 0x800D (haltedBy .phaseError) = .next t ∧ t.rsp = some ⟨0, 0x40⟩) ∧
    (∃ t, issue 0x800E State.reset = .next t ∧ t.rsp = some ⟨1, 0⟩) ∧
    (∃ t, issue 0x2042 full = .next t ∧ t.rsp = some ⟨3, 0⟩) ∧
    (∃ t, issue 0x800E (haltedBy .phaseError) = .next t ∧ t.rsp = some ⟨4, 0⟩) :=
  ⟨⟨_, rfl, rfl⟩, ⟨_, rfl, rfl⟩, ⟨_, rfl, rfl⟩, ⟨_, rfl, rfl⟩⟩

theorem witness_ReadRegisterGivesItsValue :
    ((0x800E : CmdWord).extractLsb' 12 4 = 0x8 ∧ 0x0D < ((0x800E : CmdWord).extractLsb' 0 8).toNat) ∧
    ((0x8100 : CmdWord).extractLsb' 12 4 = 0x8 ∧ (0x8100 : CmdWord).extractLsb' 8 4 ≠ 0) ∧
    State.reset.err = none ∧ (haltedBy .phaseError).err ≠ none := by decide

theorem witness_SoftResetRestoresResetValues :
    (0xF001 : CmdWord).extractLsb' 12 4 = 0xF ∧ (0xF001 : CmdWord) ≠ 0xF000 := by decide

theorem witness_ClrStartsMessage :
    (State.reset.err = none ∧ canStart State.reset) ∧ (full.err = none ∧ canStart full) ∧
    (received.err = none ∧ canStart received) ∧ ((emitting 0).err = none ∧ (emitting 0).phase = .emit) :=
  ⟨⟨rfl, .inl rfl⟩, ⟨rfl, .inr (.inl rfl)⟩, ⟨rfl, .inr (.inr rfl)⟩, rfl, rfl⟩

theorem witness_PushAbsorbsOneByte :
    (State.reset.err = none ∧ State.reset.phase ≠ .absorb) ∧
    (full.err = none ∧ full.phase = .absorb ∧ full.len = full.cfg.bufBytes) ∧
    (let s : State := { started with cfg := ⟨1⟩ }
     s.err = none ∧ s.phase = .absorb ∧ s.len.toNat < s.cfg.bufBytes.toNat) := by decide

theorem witness_EncFreezesHeaderThenInjects :
    ((emitting 0).err = none ∧ (emitting 0).phase ≠ .absorb) ∧
    (full.err = none ∧ full.phase = .absorb ∧ 1 ≤ full.cfg.bufBytes.toNat ∧ full.len ≠ 0 ∧
      enginesHold full [0x41] ∧ bufPrefix full full.len.toNat = [0x41]) ∧
    (started.err = none ∧ started.phase = .absorb ∧ 1 ≤ started.cfg.bufBytes.toNat ∧ started.len = 0) :=
  ⟨by decide, ⟨rfl, rfl, by decide, by decide, engines_pushed, rfl⟩, by decide⟩

theorem witness_PopEmitsNextFrameByte :
    (State.reset.err = none ∧ State.reset.phase ≠ .emit) ∧
    ((emitting 15).err = none ∧ (emitting 15).phase = .emit ∧ (emitting 15).hpos.toNat < 16 ∧
      BlockInv (emitting 15)) ∧
    ((emitting 16).err = none ∧ (emitting 16).phase = .emit ∧ 16 ≤ (emitting 16).hpos.toNat ∧
      (emitting 16).ppos.toNat < (emitting 16).cfg.bufBytes.toNat ∧ BlockInv (emitting 16)) :=
  ⟨by decide, ⟨rfl, rfl, by decide, inv_emitting _ (.inr (.inl rfl))⟩, rfl, rfl, by decide, by decide,
    inv_emitting _ (.inr (.inr rfl))⟩

theorem witness_TransmitPathSendsEncodedFrame :
    full.err = none ∧ canStart full ∧ [(0x41 : Byte)].length ≤ full.cfg.bufBytes.toNat :=
  ⟨rfl, .inr (.inl rfl), by decide⟩

theorem witness_OverlongPayloadFaultsBufferFull :
    full.err = none ∧ canStart full ∧ full.cfg.bufBytes.toNat < [(1 : Byte), 2].length :=
  ⟨rfl, .inr (.inl rfl), by decide⟩

theorem witness_ChecksumAndParityReadouts :
    full.err = none ∧ canStart full ∧ [(0x41 : Byte)].length ≤ full.cfg.bufBytes.toNat :=
  ⟨rfl, .inr (.inl rfl), by decide⟩

theorem witness_RxsStartsReception :
    (State.reset.err = none ∧ canStart State.reset) ∧ (received.err = none ∧ canStart received) ∧
    (awaiting.err = none ∧ awaiting.phase = .rxpay) :=
  ⟨⟨rfl, .inl rfl⟩, ⟨rfl, .inr (.inr rfl)⟩, rfl, rfl⟩

theorem witness_RxbReceivesOneByte :
    (received.err = none ∧ received.phase ≠ .rxhdr ∧ received.phase ≠ .rxpay) ∧
    ((zerosReceived 15).err = none ∧ (zerosReceived 15).phase = .rxhdr ∧ (zerosReceived 15).hpos.toNat < 16) ∧
    (awaiting.err = none ∧ awaiting.phase = .rxpay) := by decide

theorem witness_VerdictComparesAllThreeFields :
    (∃ t, exec (.rxb 0) (zerosReceived 15) = .next t ∧ t.phase = .done ∧ t.crcBad = false) ∧
    (∃ t, exec (.rxb 0x40) awaiting = .next t ∧ t.phase = .done ∧ t.crcBad = true) :=
  ⟨⟨_, rfl, rfl, by decide⟩, ⟨_, rfl, rfl, by decide⟩⟩

theorem witness_RxeEndsReception :
    (State.reset.err = none ∧ State.reset.phase ≠ .rxhdr ∧ State.reset.phase ≠ .rxpay) ∧
    ((zerosReceived 0).phase = .rxhdr ∧ (zerosReceived 0).hpos = 0) ∧
    ((zerosReceived 1).phase = .rxhdr ∧ (zerosReceived 1).hpos ≠ 0) ∧
    (awaiting.err = none ∧ awaiting.phase = .rxpay) := by decide

theorem witness_ReceivePathClassifiesFrame :
    State.reset.err = none ∧ canStart State.reset ∧
    (∀ hw : 16 ≤ (List.replicate 16 (0 : Byte)).length,
      (List.replicate 16 (0 : Byte)).length ≤
        16 + (hdrParse (headerPart (List.replicate 16 0) hw)).dataLen.toNat) ∧
    classify [0x01] false = .more :=
  ⟨rfl, .inl rfl, fun _ => by simp, by decide⟩

theorem witness_LoopbackVerdict :
    encodePacket [0x41] true = some (headerA, [0x40]) ∧ encodePacket [] true = some (⟨0, 0, 0, 0⟩, []) ∧
    received.err = none ∧ canStart received :=
  ⟨by decide, by decide, rfl, .inr (.inr rfl)⟩

theorem witness_VerdictCodesMatchFlags :
    (BlockInv (zerosReceived 15) ∧ ready (.rxb 0) (zerosReceived 15) ∧
      ∃ t, exec (.rxb 0) (zerosReceived 15) = .next t ∧ t.rsp = some ⟨0, verdictCode .frameOK⟩) ∧
    (BlockInv awaiting ∧ ready (.rxb 0x40) awaiting ∧
      ∃ t, exec (.rxb 0x40) awaiting = .next t ∧ t.rsp = some ⟨0, verdictCode .integrityMismatch⟩) ∧
    (ready .rxe awaiting ∧
      ∃ t, exec .rxe awaiting = .next t ∧ t.rsp = some ⟨0, verdictCode .malformedFrame⟩) ∧
    (BlockInv (zerosReceived 0) ∧ ready .rxe (zerosReceived 0) ∧
      ∃ t, exec .rxe (zerosReceived 0) = .next t ∧ t.rsp = some ⟨0, verdictCode .streamClosed⟩) ∧
    (ready (.rxb 1) (zerosReceived 0) ∧
      ∃ t, exec (.rxb 1) (zerosReceived 0) = .next t ∧ t.rsp = some ⟨0, verdictCode .more⟩) :=
  ⟨⟨inv_zerosReceived _ (.inr rfl), ⟨rfl, rfl⟩, _, rfl, by decide⟩, ⟨inv_awaiting, ⟨rfl, rfl⟩, _, rfl, by decide⟩,
    ⟨⟨rfl, rfl⟩, _, rfl, rfl⟩, ⟨inv_zerosReceived _ (.inl rfl), ⟨rfl, rfl⟩, _, rfl, rfl⟩, ⟨rfl, rfl⟩, _, rfl, rfl⟩

theorem witness_CrcBitShiftStep :
    (0xFFFFFFFF : Word).getLsbD 0 = true ∧ (0x80000000 : Word).getLsbD 0 = false := by decide

theorem witness_CrcRunIsLinearOverXor : [(0x41 : Byte)].length = [(0x40 : Byte)].length := rfl

theorem witness_SingleBitFlipChangesCrc : 0 < 8 ∧ 7 < 8 := by decide

theorem witness_SwappingBytesAndColumnParity :
    ∃ i j k : Fin (List.replicate 9 (0 : Byte)).length, i.val % 8 = j.val % 8 ∧ i ≠ j ∧ i.val % 8 ≠ k.val % 8 :=
  ⟨⟨0, by simp⟩, ⟨8, by simp⟩, ⟨7, by simp⟩, rfl, by simp, by simp⟩

theorem witness_LateColumnsAreInvisible :
    [(0 : Byte), 1, 2, 3, 4].length = [(0 : Byte), 1, 2, 3, 5].length ∧
    ∀ i : Nat, i % 8 < 4 → [(0 : Byte), 1, 2, 3, 4][i]? = [(0 : Byte), 1, 2, 3, 5][i]? := by
  refine ⟨rfl, fun i hi => ?_⟩
  by_cases h : i < 5
  · interval_cases i <;> first | rfl | omega
  · rw [List.getElem?_eq_none (by simp; omega), List.getElem?_eq_none (by simp; omega)]

theorem witness_InjectionChangesAllThree : [(0x41 : Byte)] ≠ [] := by decide

theorem witness_HeaderBytesAreLittleEndian : 0 < 4 ∧ 3 < 4 := by decide

theorem witness_EncodeTakesHeaderFromOriginalPayload :
    (List.replicate (2 ^ 32 - 1) (0 : Byte)).length < 2 ^ 32 := by
  simp only [List.length_replicate]
  omega

theorem witness_DetectionContract :
    encodePacket [0x41] true = some (headerA, [0x40]) ∧ encodePacket [] true = some (⟨0, 0, 0, 0⟩, []) := by decide

theorem witness_CommandsLeaveDottedStateAlone :
    (∃ t, exec .clr State.reset = .next t) ∧ (∃ t, exec (.push 0x41) started = .next t) ∧
    (∃ t, exec (.enc true) full = .next t) ∧ (∃ t, exec .pop (emitting 16) = .next t) ∧
    (∃ t, exec .rxs State.reset = .next t) ∧ (∃ t, exec (.rxb 0x41) awaiting = .next t) ∧
    (∃ t, exec .rxe awaiting = .next t) ∧ (∃ t, exec (.rd 0x0D) full = .next t) ∧
    (∃ t, exec .rst (haltedBy .phaseError) = .next t) :=
  ⟨⟨_, rfl⟩, ⟨_, rfl⟩, ⟨_, rfl⟩, ⟨_, rfl⟩, ⟨_, rfl⟩, ⟨_, rfl⟩, ⟨_, rfl⟩, ⟨_, rfl⟩, ⟨_, rfl⟩⟩

theorem witness_StepKeepsInvariant : BlockInv State.reset ∧ ∃ t, step State.reset = .next t :=
  ⟨inv_reset, _, rfl⟩

theorem witness_InvariantStatesNeverStop : BlockInv full ∧ BlockInv (emitting 16) ∧ BlockInv awaiting :=
  ⟨inv_full, inv_emitting _ (.inr (.inr rfl)), inv_awaiting⟩

theorem witness_EmitLeftOnlyByLastByteOrReset :
    (∃ t, step (presented 0x4000 (emitting 16)) = .next t ∧ t.phase = .done) ∧
    (∃ t, step (presented 0xF000 (emitting 16)) = .next t ∧ t.phase = .idle) :=
  ⟨⟨_, rfl, rfl⟩, ⟨_, rfl, rfl⟩⟩

theorem witness_HeaderFixedOnceComplete :
    (∃ t, step (presented 0x4000 (emitting 16)) = .next t ∧ t.hdr = headerA) ∧
    (∃ t, step (presented 0x5000 received) = .next t ∧ t.hdr = ⟨0, 0, 0, 0⟩) ∧
    (∃ t, step (presented 0x6041 awaiting) = .next t ∧ t.hdr = headerA) :=
  ⟨⟨_, rfl, rfl⟩, ⟨_, rfl, rfl⟩, ⟨_, rfl, rfl⟩⟩

theorem witness_PopNeverRepeatsAnOffset :
    (BlockInv (emitting 15) ∧ ready .pop (emitting 15) ∧ ∃ t, exec .pop (emitting 15) = .next t) ∧
    (BlockInv (emitting 16) ∧ ready .pop (emitting 16) ∧ ∃ t, exec .pop (emitting 16) = .next t) :=
  ⟨⟨inv_emitting _ (.inr (.inl rfl)), ⟨rfl, rfl⟩, _, rfl⟩, inv_emitting _ (.inr (.inr rfl)), ⟨rfl, rfl⟩, _, rfl⟩

theorem witness_OnlyWrittenBytesAreRead :
    (BlockInv (emitting 16) ∧ (emitting 16).err = none ∧ (emitting 16).phase = .emit ∧ (emitting 16).hpos = 16) ∧
    (BlockInv full ∧ full.err = none ∧ full.phase = .absorb ∧ full.len ≠ 0) ∧
    (∃ t, exec .pop (emitting 16) = .next t) :=
  ⟨⟨inv_emitting _ (.inr (.inr rfl)), rfl, rfl, rfl⟩, ⟨inv_full, rfl, rfl, by decide⟩, _, rfl⟩

theorem witness_BufferBeforeClrIsUnobservable :
    (State.reset.err = none ∧ canStart State.reset) ∧ (full.err = none ∧ canStart full) ∧
    (received.err = none ∧ canStart received) :=
  ⟨⟨rfl, .inl rfl⟩, ⟨rfl, .inr (.inl rfl)⟩, rfl, .inr (.inr rfl)⟩

theorem witness_EncodeRefusesUncountablePayloads : 2 ^ 32 ≤ (List.replicate (2 ^ 32) (0 : Byte)).length := by
  simp only [List.length_replicate]
  omega

end Sys2Proof.Tests
end

/-! The fields of the status word (spec/10_state.md R21): one equation for every bit of `STATUS`, the two
numeric fields read back from it, and the layout as a whole. -/

namespace Sys2Proof.Proofs

open Sys2Proof Sys2Proof.Machine

/-- A flag's word holds the flag in bit 0 and nothing else. -/
theorem flagWord_getLsbD (f : Bool) (i : Nat) : (flagWord f).getLsbD i = (decide (i = 0) && f) := by
  rcases i with _ | i
  · simp [flagWord]
  · simp [flagWord, BitVec.getLsbD_of_ge]

/-- A flag's word moved up by `n` holds the flag in bit `n` and nothing else. -/
theorem flagWord_shiftLeft_getLsbD (f : Bool) (n i : Nat) (hi : i < 32) :
    (flagWord f <<< n).getLsbD i = (decide (i = n) && f) := by
  rw [BitVec.getLsbD_shiftLeft, flagWord_getLsbD]
  rcases Nat.lt_trichotomy i n with hlt | rfl | hgt
  · simp [hlt, hlt.ne]
  · simp [hi]
  · have hsub : i - n ≠ 0 := by omega
    simp [hsub, hgt.ne']

/-- Every bit of `STATUS` (R21): the fields do not overlap, so each bit comes from at most one of them. -/
theorem statusWord_getLsbD (s : State) (i : Nat) (hi : i < 32) :
    (statusWord s).getLsbD i =
      ((phaseBits s.phase).getLsbD i || (decide (i = 3) && s.injected) ||
        (decide (4 ≤ i) && (errBits s.err).getLsbD (i - 4)) || (decide (i = 8) && s.vValid) ||
        (decide (i = 9) && s.crcBad) || (decide (i = 10) && s.rowBad) || (decide (i = 11) && s.colBad) ||
        (decide (i = 12) && s.malformed)) := by
  have herr : ((errBits s.err).setWidth 32 <<< 4).getLsbD i =
      (decide (4 ≤ i) && (errBits s.err).getLsbD (i - 4)) := by
    simp [hi, ← decide_not]
  simp only [statusWord, BitVec.getLsbD_or, flagWord_shiftLeft_getLsbD _ _ _ hi, herr, BitVec.getLsbD_setWidth, hi,
    decide_true, Bool.true_and]

/-- Bits 2:0 of `STATUS` are `PHASE`. -/
theorem statusWord_phase (s : State) : (statusWord s).extractLsb' 0 3 = phaseBits s.phase := by
  apply BitVec.eq_of_getLsbD_eq
  intro i hi
  have hlow : i ≠ 3 ∧ ¬ 4 ≤ i ∧ i ≠ 8 ∧ i ≠ 9 ∧ i ≠ 10 ∧ i ≠ 11 ∧ i ≠ 12 := by omega
  rw [BitVec.getLsbD_extractLsb', Nat.zero_add, statusWord_getLsbD s i (by omega)]
  simp [hi, hlow]

/-- Bits 7:4 of `STATUS` are `ERR`. -/
theorem statusWord_err (s : State) : (statusWord s).extractLsb' 4 4 = errBits s.err := by
  apply BitVec.eq_of_getLsbD_eq
  intro i hi
  have hmid : 3 ≤ 4 + i ∧ 4 + i ≠ 3 ∧ 4 + i ≠ 8 ∧ 4 + i ≠ 9 ∧ 4 + i ≠ 10 ∧ 4 + i ≠ 11 ∧ 4 + i ≠ 12 := by omega
  rw [BitVec.getLsbD_extractLsb', statusWord_getLsbD s (4 + i) (by omega)]
  simp [hi, hmid, BitVec.getLsbD_of_ge]

/-- Bits 31:13 of `STATUS` are reserved and read 0. -/
theorem statusWord_reserved (s : State) : (statusWord s).extractLsb' 13 19 = 0 := by
  apply BitVec.eq_of_getLsbD_eq
  intro i hi
  have hhigh : 3 ≤ 13 + i ∧ 4 ≤ 13 + i - 4 ∧
      13 + i ≠ 3 ∧ 13 + i ≠ 8 ∧ 13 + i ≠ 9 ∧ 13 + i ≠ 10 ∧ 13 + i ≠ 11 ∧ 13 + i ≠ 12 := by omega
  rw [BitVec.getLsbD_extractLsb', statusWord_getLsbD s (13 + i) (by omega)]
  simp [hhigh, BitVec.getLsbD_of_ge]

/-- The numbers of the phases (R20), as the layout writes them out. -/
theorem phaseBits_eq (p : Phase) :
    phaseBits p =
      (match p with
        | .idle => 0 | .absorb => 1 | .emit => 2 | .rxhdr => 3 | .rxpay => 4 | .done => 5) := by
  cases p <;> rfl

/-- The numbers of `ERR` (R22), as the layout writes them out. -/
theorem errBits_eq (e : Option FaultCode) :
    errBits e =
      (match e with
        | none => 0 | some .illegalCommand => 1 | some .phaseError => 2 | some .bufferFull => 3) := by
  rcases e with _ | c
  · rfl
  · cases c <;> rfl

/-- Settles O14: the two numeric fields and the reserved bits by their own lemmas, each flag from the equation of
its bit, where the phase number has no bit above 2 and the fault number none above 7. -/
theorem statusWordLayout : Obligations.StatusWordLayout := by
  intro s
  refine ⟨?phase, ?injected, ?err, ?vValid, ?crcBad, ?rowBad, ?colBad, ?malformed, statusWord_reserved s⟩
  case phase => exact (statusWord_phase s).trans (phaseBits_eq s.phase)
  case err => exact (statusWord_err s).trans (errBits_eq s.err)
  all_goals
    rw [statusWord_getLsbD s _ (by decide)]
    simp [BitVec.getLsbD_of_ge]

end Sys2Proof.Proofs

/-! The opcode map (spec/30_encoding.md R64, R68): a command word is its three fields, a word decodes to a command
exactly when it is that command's word, and the words of the legal commands are counted. -/

namespace Sys2Proof.Proofs

open Sys2Proof Sys2Proof.Machine

/-! ### A word is its three fields -/

/-- The fields `op`, `z` and `imm8` are the whole word (R60). -/
theorem append_fields (w : CmdWord) : opField w ++ (zField w ++ immField w) = w := by
  have hlow : zField w ++ immField w = w.extractLsb' 0 12 :=
    BitVec.extractLsb'_append_extractLsb'_eq_extractLsb' (by decide)
  rw [hlow]
  exact (BitVec.extractLsb'_append_extractLsb'_eq_extractLsb' (by decide)).trans BitVec.extractLsb'_eq_self

/-- Two words are the same when their fields are. -/
theorem word_eq_iff (w v : CmdWord) :
    w = v ↔ opField w = opField v ∧ zField w = zField v ∧ immField w = immField v := by
  constructor
  · rintro rfl
    exact ⟨rfl, rfl, rfl⟩
  · rintro ⟨hop, hz, himm⟩
    rw [← append_fields w, ← append_fields v, hop, hz, himm]

theorem opField_and (w v : CmdWord) : opField (w &&& v) = opField w &&& opField v := BitVec.extractLsb'_and

theorem zField_and (w v : CmdWord) : zField (w &&& v) = zField w &&& zField v := BitVec.extractLsb'_and

theorem immField_and (w v : CmdWord) : immField (w &&& v) = immField w &&& immField v := BitVec.extractLsb'_and

/-- A row of R64 whose mask covers `op` and `z` asks for these two fields, and for the masked part of `imm8`. -/
theorem and_mask_eq_iff {mask : CmdWord} (hop : opField mask = BitVec.allOnes 4) (hz : zField mask = BitVec.allOnes 4)
    (w pattern : CmdWord) :
    w &&& mask = pattern ↔
      opField w = opField pattern ∧ zField w = zField pattern ∧ immField w &&& immField mask = immField pattern := by
  rw [word_eq_iff, opField_and, zField_and, immField_and, hop, hz, BitVec.and_allOnes, BitVec.and_allOnes]

/-- ENC's operand byte is its flag: bits 7:1 are zero and bit 0 is the flag (R61). -/
theorem eq_enc_operand_iff (imm : BitVec 8) (j : Bool) :
    imm = (Instr.enc j).operand ↔ imm.extractLsb' 1 7 = 0 ∧ imm.getLsbD 0 = j := by
  revert imm j
  decide

/-- The mask of ENC's row leaves bits 7:1 of the operand byte (R64). -/
theorem extract_high_eq_zero_iff (imm : BitVec 8) : imm.extractLsb' 1 7 = 0 ↔ imm &&& 0xFE = 0 := by
  revert imm
  decide

/-! ### The decoder against the encoder -/

/-- The three fields of every command's word (R60, R61, R64). -/
theorem encode_fields (i : Instr) :
    opField (encode i) = i.opcode ∧ zField (encode i) = 0 ∧ immField (encode i) = i.operand :=
  Laws.fields_of_word i.opcode i.operand

/-- The operand rule of a command without an operand (R61). -/
theorem decodeNoOperand_eq_ok_iff (i k : Instr) (imm : BitVec 8) :
    decodeNoOperand i imm = .ok k ↔ i = k ∧ imm = 0 := by
  by_cases h : imm = 0
  · simp only [decodeNoOperand, h, if_true, Except.ok.injEq, and_true]
  · simp only [decodeNoOperand, h, if_false, reduceCtorEq, and_false]

theorem decodeNoOperand_eq_error_iff (i : Instr) (imm : BitVec 8) :
    (∃ e, decodeNoOperand i imm = .error e) ↔ imm ≠ 0 := by
  by_cases h : imm = 0
  · simp only [decodeNoOperand, h, if_true, reduceCtorEq, exists_false, ne_eq, not_true]
  · exact iff_of_true ⟨.operandNotZero, if_neg h⟩ h

/-- Once `z = 0`, the decoder gives a command exactly for its opcode and its operand, if it is legal. -/
theorem decodeOp_eq_ok_iff (op : BitVec 4) (imm : BitVec 8) (i : Instr) :
    decodeOp op imm = .ok i ↔ op = i.opcode ∧ imm = i.operand ∧ i.WellFormed = true := by
  constructor
  · intro h
    unfold decodeOp at h
    split at h
    case h_2 | h_6 => cases h; exact ⟨rfl, rfl, rfl⟩
    case h_3 =>
      split at h <;> cases h
      exact ⟨rfl, (eq_enc_operand_iff imm _).mpr ⟨‹_›, rfl⟩, rfl⟩
    case h_8 =>
      split at h <;> cases h
      exact ⟨rfl, rfl, by simpa [Instr.WellFormed]⟩
    case h_10 => cases h
    all_goals
      obtain ⟨rfl, rfl⟩ := (decodeNoOperand_eq_ok_iff _ _ _).mp h
      exact ⟨rfl, rfl, rfl⟩
  · rintro ⟨rfl, rfl, hwf⟩
    cases i with
    | enc j => cases j <;> rfl
    | rd r => exact if_pos (of_decide_eq_true hwf)
    | _ => rfl

/-- A word decodes to a command exactly when its fields are the command's, which is legal. -/
theorem decode_eq_ok_iff (w : CmdWord) (i : Instr) :
    decode w = .ok i ↔
      opField w = i.opcode ∧ zField w = 0 ∧ immField w = i.operand ∧ i.WellFormed = true := by
  by_cases hz : zField w = 0
  · simp only [decode, hz, if_true, decodeOp_eq_ok_iff, true_and]
  · simp only [decode, hz, if_false, reduceCtorEq, false_and, and_false]

/-- A word decodes to a command exactly when it is the word of that command, which is legal. -/
theorem decode_eq_ok_iff_encode (w : CmdWord) (i : Instr) :
    decode w = .ok i ↔ encode i = w ∧ i.WellFormed = true := by
  obtain ⟨hop, hz, himm⟩ := encode_fields i
  rw [decode_eq_ok_iff, word_eq_iff, hop, hz, himm]
  simp only [and_assoc, eq_comm]

/-- Two legal commands have different words. -/
theorem encode_inj_of_wellFormed {i k : Instr} (hi : i.WellFormed = true) (hk : k.WellFormed = true)
    (h : encode i = encode k) : i = k := by
  have hik : Except.ok (ε := Illegal) i = .ok k :=
    ((decode_eq_ok_iff_encode (encode k) i).mpr ⟨h, hi⟩).symm.trans ((decode_eq_ok_iff_encode _ k).mpr ⟨rfl, hk⟩)
  exact Except.ok.inj hik

/-- A word is legal exactly when it decodes to some command. -/
theorem legalWord_iff (w : CmdWord) : legalWord w = true ↔ ∃ i, decode w = .ok i := by
  unfold legalWord
  split <;> simp [*]

/-! ### The number of legal words -/

/-- The commands `f` makes of the operand bytes below `n`. -/
def commandsBelow (f : Byte → Instr) (n : Nat) : List Instr := (List.range n).map fun k => f (BitVec.ofNat 8 k)

theorem mem_commandsBelow {f : Byte → Instr} {n : Nat} (hn : n ≤ 256) (i : Instr) :
    i ∈ commandsBelow f n ↔ ∃ b : Byte, b.toNat < n ∧ f b = i := by
  simp only [commandsBelow, List.mem_map, List.mem_range]
  constructor
  · rintro ⟨k, hk, rfl⟩
    exact ⟨BitVec.ofNat 8 k, by rw [BitVec.toNat_ofNat]; omega, rfl⟩
  · rintro ⟨b, hb, rfl⟩
    exact ⟨b.toNat, hb, by simp⟩

theorem nodup_commandsBelow {f : Byte → Instr} (hf : Function.Injective f) {n : Nat} (hn : n ≤ 256) :
    (commandsBelow f n).Nodup := by
  refine List.nodup_range.map_on fun x hx y hy hxy => ?_
  have hnat := congrArg BitVec.toNat (hf hxy)
  rw [List.mem_range] at hx hy
  simp only [BitVec.toNat_ofNat] at hnat
  omega

@[simp] theorem length_commandsBelow (f : Byte → Instr) (n : Nat) : (commandsBelow f n).length = n := by
  simp [commandsBelow]

/-- Every legal command, once: the five without an operand, ENC's two, PUSH and RXB of every byte, RD of every
register. -/
def legalCommands : List Instr :=
  [Instr.clr, Instr.pop, Instr.rxs, Instr.rxe, Instr.rst, Instr.enc false, Instr.enc true] ++
    (commandsBelow .push 256 ++ (commandsBelow .rxb 256 ++ commandsBelow .rd 14))

theorem mem_legalCommands (i : Instr) : i ∈ legalCommands ↔ i.WellFormed = true := by
  simp only [legalCommands, List.mem_append, mem_commandsBelow (le_refl 256), mem_commandsBelow (n := 14) (by omega)]
  cases i with
  | enc j => cases j <;> simp [Instr.WellFormed]
  | rd r => simp [Instr.WellFormed, Nat.lt_succ_iff]
  | push b | rxb b => simp [Instr.WellFormed, b.isLt]
  | _ => simp [Instr.WellFormed]

theorem nodup_legalCommands : legalCommands.Nodup := by
  have hpush := nodup_commandsBelow (f := .push) (fun _ _ => Instr.push.inj) (le_refl 256)
  have hrxb := nodup_commandsBelow (f := .rxb) (fun _ _ => Instr.rxb.inj) (le_refl 256)
  have hrd := nodup_commandsBelow (f := .rd) (fun _ _ => Instr.rd.inj) (n := 14) (by omega)
  simp [legalCommands, List.nodup_append, mem_commandsBelow, or_imp, forall_and, hpush, hrxb, hrd]

theorem length_legalCommands : legalCommands.length = 533 := by
  simp [legalCommands]

/-- The legal words are the words of the legal commands, each once. -/
theorem legalWords_perm :
    ((List.range 65536).filter fun n => legalWord (BitVec.ofNat 16 n)).Perm
      (legalCommands.map fun i => (encode i).toNat) := by
  refine (List.perm_ext_iff_of_nodup (List.nodup_range.filter _) ?nodup).mpr fun n => ?mem
  case nodup =>
    refine List.Nodup.map_on (fun i hi k hk heq => ?_) nodup_legalCommands
    rw [mem_legalCommands] at hi hk
    exact encode_inj_of_wellFormed hi hk (BitVec.eq_of_toNat_eq heq)
  case mem =>
    simp only [List.mem_filter, List.mem_range, List.mem_map, mem_legalCommands, legalWord_iff, decode_eq_ok_iff_encode]
    constructor
    · rintro ⟨hn, i, hi, hwf⟩
      exact ⟨i, hwf, by rw [hi, BitVec.toNat_ofNat, Nat.mod_eq_of_lt hn]⟩
    · rintro ⟨i, hwf, rfl⟩
      exact ⟨(encode i).isLt, i, by simp, hwf⟩

/-! ### The rows of the opcode map -/

/-- The row of a command without an operand (R64): the whole word is fixed. -/
theorem decode_eq_ok_iff_word {i : Instr} (hwf : i.WellFormed = true) (w : CmdWord) :
    decode w = .ok i ↔ w &&& 0xFFFF = encode i := by
  rw [decode_eq_ok_iff_encode, and_iff_left hwf, eq_comm]
  exact iff_of_eq (congrArg (· = encode i) BitVec.and_allOnes.symm)

/-- The row of a command whose operand is the whole of `imm8` (R64). -/
theorem decode_eq_ok_iff_masked {i : Instr} {pattern : CmdWord} (hop : opField pattern = i.opcode)
    (hz : zField pattern = 0) (himm : immField pattern = 0#8) (w : CmdWord) :
    decode w = .ok i ↔ w &&& 0xFF00 = pattern ∧ i.operand = immField w ∧ i.WellFormed = true := by
  have hmask : immField 0xFF00 = 0#8 := by decide
  rw [decode_eq_ok_iff, and_mask_eq_iff (by decide) (by decide), hop, hz, himm, hmask, eq_comm (a := immField w)]
  simp only [BitVec.and_zero, and_true, and_assoc]

/-- The row of RD with its limit on the register number (R64). -/
theorem decode_eq_rd_iff (w : CmdWord) (r : BitVec 8) :
    decode w = .ok (.rd r) ↔ w &&& 0xFF00 = 0x8000 ∧ r = w.extractLsb' 0 8 ∧ r.toNat ≤ 0x0D :=
  (decode_eq_ok_iff_masked rfl rfl rfl w).trans
    (and_congr_right fun _ => and_congr_right fun _ => decide_eq_true_iff)

/-- The row of ENC (R64). -/
theorem decode_eq_enc_iff (w : CmdWord) (j : Bool) :
    decode w = .ok (.enc j) ↔ w &&& 0xFFFE = 0x3000 ∧ j = w.getLsbD 0 := by
  have hbits : (immField w).extractLsb' 1 7 = 0 ↔ immField w &&& immField 0xFFFE = immField 0x3000 :=
    extract_high_eq_zero_iff (immField w)
  have hflag : (immField w).getLsbD 0 = w.getLsbD 0 := BitVec.getLsbD_extractLsb' 0 8 w 0
  rw [decode_eq_ok_iff, and_mask_eq_iff (by decide) (by decide), eq_enc_operand_iff, hbits, hflag, eq_comm (a := j)]
  simp only [Instr.WellFormed, and_true, and_assoc]
  rfl

/-- Settles O3: the row of every command from the decoder's equation, and the count from the list of legal commands. -/
theorem opcodeMapSelectsCommands : Obligations.OpcodeMapSelectsCommands := by
  refine ⟨fun w => ⟨?clr, ?push, ?enc, ?pop, ?rxs, ?rxb, ?rxe, ?rd, ?rst⟩, ?count⟩
  case clr | pop | rxs | rxe | rst => exact decode_eq_ok_iff_word rfl w
  case push =>
    exact fun b => (decode_eq_ok_iff_masked rfl rfl rfl w).trans (and_congr_right fun _ => and_iff_left rfl)
  case rxb =>
    exact fun b => (decode_eq_ok_iff_masked rfl rfl rfl w).trans (and_congr_right fun _ => and_iff_left rfl)
  case enc => exact decode_eq_enc_iff w
  case rd => exact decode_eq_rd_iff w
  case count => exact legalWords_perm.length_eq.trans ((List.length_map _).trans length_legalCommands)

/-! ### The illegal words -/

/-- Once `z = 0`, the decoder rejects exactly the reserved opcodes, and an operand against its command's rule (R68). -/
theorem decodeOp_eq_error_iff (op : BitVec 4) (imm : BitVec 8) :
    (∃ e, decodeOp op imm = .error e) ↔
      op ∈ [(0x0 : BitVec 4), 0x9, 0xA, 0xB, 0xC, 0xD, 0xE] ∨
      (op ∈ [(0x1 : BitVec 4), 0x4, 0x5, 0x7, 0xF] ∧ imm ≠ 0) ∨
      (op = 0x3 ∧ imm.extractLsb' 1 7 ≠ 0) ∨
      (op = 0x8 ∧ 0x0D < imm.toNat) := by
  unfold decodeOp
  split
  case h_10 =>
    have hreserved : op ∈ [(0x0 : BitVec 4), 0x9, 0xA, 0xB, 0xC, 0xD, 0xE] := by
      revert op
      decide
    exact iff_of_true ⟨.reservedOp, rfl⟩ (.inl hreserved)
  case h_3 => split <;> simp_all
  case h_8 => split <;> simp_all
  case h_2 | h_6 => simp
  all_goals simp [decodeNoOperand_eq_error_iff]

/-- Bits 7:1 of a word are those of its operand byte. -/
theorem immField_extract (w : CmdWord) : (immField w).extractLsb' 1 7 = w.extractLsb' 1 7 := by
  simp [immField]

/-- A word is illegal exactly when the decoder rejects it. -/
theorem legalWord_eq_false_iff (w : CmdWord) : legalWord w = false ↔ ∃ e, decode w = .error e := by
  unfold legalWord
  split <;> simp [*]

/-- What an illegal word does (R151, R155): Halted is answered, or IllegalCommand is taken. -/
theorem issue_illegal {w : CmdWord} (h : legalWord w = false) (s : State) :
    issue w s = if s.err = none then .next (faulted .illegalCommand s) else .next (answer 4 0 s) := by
  obtain ⟨e, he⟩ := (legalWord_eq_false_iff w).mp h
  rw [issue_error he, illegalWord_eq]

/-- Settles O4: the words by the decoder's error cases, their effect by the answer to an illegal word. -/
theorem illegalWordsAreExactlyReserved : Obligations.IllegalWordsAreExactlyReserved := by
  refine ⟨fun w => ?words, rfl, rfl, fun w s h => ⟨fun hrun => ?running, fun hhalt => ?halted⟩⟩
  case words =>
    rw [legalWord_eq_false_iff, ← immField_extract]
    change _ ↔ opField w ∈ _ ∨ zField w ≠ 0 ∨ (opField w ∈ _ ∧ immField w ≠ 0) ∨ _ ∨ (opField w = _ ∧ _)
    by_cases hz : zField w = 0
    · rw [decode, if_pos hz, decodeOp_eq_error_iff]
      simp only [hz, ne_eq, not_true, false_or]
      rfl
    · exact iff_of_true ⟨.zNotZero, if_neg hz⟩ (.inr (.inl hz))
  case running => rw [issue_illegal h, if_pos hrun]; rfl
  case halted => rw [issue_illegal h, if_neg hhalt]; rfl

end Sys2Proof.Proofs

/-! What every command word is answered (spec/30_encoding.md R62, spec/60_exceptions.md R158): Halted, a fault, or the
response of an executed command. -/

namespace Sys2Proof.Proofs

open Sys2Proof Sys2Proof.Machine

/-- The commands whose response carries no data (R62). -/
def AnswersNoData (i : Instr) : Prop :=
  i = .clr ∨ (∃ b, i = .push b) ∨ (∃ j, i = .enc j) ∨ i = .rxs ∨ i = .rst

/-- The response of an executed command: `err` is 0, and `data` too where the command returns none (R62). -/
def Executed (i : Instr) (t : State) : Prop :=
  ∃ d, t.rsp = some ⟨0, d⟩ ∧ (AnswersNoData i → d = 0)

/-- A response of a command that returns data is that of an executed command. -/
theorem executed_answer {i : Instr} (hi : ¬ AnswersNoData i) (d : Word) (u : State) : Executed i (answer 0 d u) :=
  ⟨d, rfl, fun h => absurd h hi⟩

/-- The response `(0, 0)` is that of an executed command. -/
theorem executed_answer_zero (i : Instr) (u : State) : Executed i (answer 0 0 u) := ⟨0, rfl, fun _ => rfl⟩

/-- A command's own rule takes a fault, or it answers as an executed command. -/
theorem ownRule_faulted_or_executed {i : Instr} {s t : State} (herr : s.err = none ∨ runsHalted i = true)
    (h : OwnRule i s t) : (s.err = none ∧ ∃ c, t = faulted c s) ∨ Executed i t := by
  cases i with
  | clr | rxs | rst =>
    obtain rfl := h
    exact .inr (executed_answer_zero _ _)
  | push b =>
    obtain ⟨-, ⟨-, rfl⟩ | ⟨-, rfl⟩⟩ := h
    · exact .inl ⟨herr.resolve_right Bool.false_ne_true, .bufferFull, rfl⟩
    · exact .inr (executed_answer_zero _ _)
  | enc j =>
    obtain ⟨-, ⟨-, rfl⟩ | ⟨-, rfl⟩⟩ := h <;> exact .inr (executed_answer_zero _ _)
  | pop =>
    obtain ⟨-, last, ⟨-, rfl, -⟩ | ⟨-, rfl, -⟩⟩ := h <;> exact .inr (executed_answer (by simp [AnswersNoData]) _ _)
  | rxb b =>
    obtain ⟨-, ⟨-, rfl⟩ | ⟨-, -, rfl⟩ | ⟨-, -, rfl⟩⟩ | ⟨-, ⟨-, rfl⟩ | ⟨-, rfl⟩⟩ := h <;>
      exact .inr (executed_answer (by simp [AnswersNoData]) _ _)
  | rxe =>
    obtain ⟨-, ⟨-, rfl⟩ | ⟨-, rfl⟩⟩ := h <;> exact .inr (executed_answer (by simp [AnswersNoData]) _ _)
  | rd r =>
    obtain ⟨g, -, rfl⟩ | ⟨-, hnone, rfl⟩ := h
    · exact .inr (executed_answer (by simp [AnswersNoData]) _ _)
    · exact .inl ⟨hnone, .illegalCommand, rfl⟩

/-- The words of the commands that a halted block executes (R155). -/
theorem servesHalted_of_runsHalted {w : CmdWord} {i : Instr} (hw : decode w = .ok i) (hi : runsHalted i = true) :
    servesHalted w := by
  cases i with
  | rd r =>
    obtain ⟨hrow, rfl, hr⟩ := (decode_eq_rd_iff w r).mp hw
    exact .inl ⟨hrow, hr⟩
  | rst => exact .inr ((decode_eq_ok_iff_encode w .rst).mp hw).1.symm
  | _ => cases hi

/-- Everything that a word can lead to when the block goes on: Halted is answered, a fault is taken, or the word is a
command that its phase accepts, executed by a block that serves it. -/
theorem issue_cases {w : CmdWord} {s t : State} (h : issue w s = .next t) :
    (s.err ≠ none ∧ t = answer 4 0 s) ∨
    (s.err = none ∧ ∃ c, t = faulted c s) ∨
    (∃ i, decode w = .ok i ∧ phaseTable s.phase i ≠ none ∧ (s.err = none ∨ servesHalted w) ∧ Executed i t) := by
  cases hw : decode w with
  | error e =>
    rw [issue_error hw, illegalWord_eq] at h
    split at h <;> cases h
    · exact .inr (.inl ⟨‹_›, .illegalCommand, rfl⟩)
    · exact .inl ⟨‹_›, rfl⟩
  | ok i =>
    rw [issue_ok hw] at h
    obtain ⟨hhalt, -, ht⟩ | ⟨hnone, -, ht⟩ | ⟨herr, haccepts, hown⟩ := exec_cases h
    · exact .inl ⟨hhalt, ht⟩
    · exact .inr (.inl ⟨hnone, .phaseError, ht⟩)
    · rcases ownRule_faulted_or_executed herr hown with hfault | hexec
      · exact .inr (.inl hfault)
      · have hphase : phaseTable s.phase i ≠ none := fun hblank => by
          rw [(accepts_eq_false_iff i s.phase).mpr hblank] at haccepts
          cases haccepts
        exact .inr (.inr ⟨i, rfl, hphase, herr.imp_right (servesHalted_of_runsHalted hw), hexec⟩)

/-- Settles O13: one response for each of the three things that a word can lead to. -/
theorem everyCommandAnswersOnce : Obligations.EveryCommandAnswersOnce := by
  intro w s t h
  obtain ⟨hhalt, rfl⟩ | ⟨hnone, c, rfl⟩ | ⟨i, hw, hphase, hserves, d, hrsp, hdata⟩ := issue_cases h
  · refine ⟨⟨4, 0⟩, rfl, ?_⟩
    simp [hhalt, answer]
  · refine ⟨⟨faultBits c, 0⟩, rfl, ?_⟩
    cases c <;> simp [hnone, faultBits, faulted]
  · refine ⟨⟨0, d⟩, hrsp, ?_⟩
    have hrow : ∃ k, decode w = .ok k ∧ phaseTable s.phase k ≠ none := ⟨i, hw, hphase⟩
    have hnodata : ∀ k, decode w = .ok k → AnswersNoData k → d = 0 := fun k hk =>
      Except.ok.inj (hw.symm.trans hk) ▸ hdata
    exact ⟨Nat.zero_le 4, fun _ => ⟨hrow, hserves⟩, by simp, by simp, by simp, hnodata⟩

end Sys2Proof.Proofs

/-! The Checksum Engine's shift step and fixed points (spec/40_checksum_engine.md R81, R86). -/

namespace Sys2Proof.Proofs

open Sys2Proof Sys2Proof.Machine

/-- A step that shifts a 1 out XORs the polynomial in (R81). -/
theorem crcBit_of_bit0_true {r : Word} (h : r.getLsbD 0 = true) : crcBit r = (r >>> 1) ^^^ crcPoly := if_pos h

/-- A step that shifts a 0 out only shifts (R81). -/
theorem crcBit_of_bit0_false {r : Word} (h : r.getLsbD 0 = false) : crcBit r = r >>> 1 := if_neg (ne_true_of_eq_false h)

/-- The spec's two example steps (R81): the first shifts a 0 out, the second a 1. -/
theorem crcBit_examples : crcBit 0xFFFFFFBE = 0x7FFFFFDF ∧ crcBit 0x7FFFFFDF = 0xD2477CCF :=
  ⟨(crcBit_of_bit0_false (by decide)).trans (by decide), (crcBit_of_bit0_true (by decide)).trans (by decide)⟩

/-- Settles O32: one equation for each value of bit 0, and the two examples as instances of them. -/
theorem crcBitShiftStep : Obligations.CrcBitShiftStep :=
  ⟨fun _ => ⟨crcBit_of_bit0_true, crcBit_of_bit0_false⟩, crcBit_examples⟩

/-- The CRC-32 of no bytes is the complement of the initial register (R83, R85). -/
theorem computeCRC32_nil : computeCRC32 [] = crcOut crcInit := rfl

/-- The CRC-32 of one byte is the complement of the register that has absorbed it (R83, R85). -/
theorem computeCRC32_singleton (b : Byte) : computeCRC32 [b] = crcOut (crcByte crcInit b) := rfl

/-- The spec's example of absorbing a byte (R82). -/
theorem crcByte_crcInit_0x41 : crcByte crcInit 0x41 = 0x2C266174 := by decide

/-- Settles O34: both values are complements, of the initial register and of the register after `0x41`. -/
theorem crcFixedPoints : Obligations.CrcFixedPoints := by
  refine ⟨?empty, ?byteA⟩
  case empty => rw [computeCRC32_nil]; decide
  case byteA => rw [computeCRC32_singleton, crcByte_crcInit_0x41]; decide

end Sys2Proof.Proofs

/-! The Parity Engine's accumulators as XORs (spec/41_parity_engine.md R91 to R96): the row over all bytes, a column
over the bytes of its class, and the packed columns as a concatenation. -/

namespace Sys2Proof.Proofs

open Sys2Proof Sys2Proof.Machine

/-- Widening a byte keeps XOR (R91). -/
theorem zext32_xor (a b : Byte) : zext32 (a ^^^ b) = zext32 a ^^^ zext32 b := BitVec.setWidth_xor

/-- The row after a run is the widened XOR of the absorbed bytes onto the byte it started from (R91, R96). -/
theorem parRun_row (s : List Byte) (r : Byte) (cols : Cols) (i : Nat) :
    (parRun (zext32 r, cols) i s).1 = zext32 (s.foldl (· ^^^ ·) r) := by
  induction s generalizing r cols i with
  | nil => rfl
  | cons b s ih =>
    have hstep : parStep (zext32 r, cols) i b = (zext32 (r ^^^ b), (parStep (zext32 r, cols) i b).2) :=
      Prod.ext (zext32_xor r b).symm rfl
    rw [parRun_cons, hstep, ih, List.foldl_cons]

/-- A column after a run from position `i` on is the XOR of the bytes at the positions of its class onto the value it
started from (R91, R96). -/
theorem parRun_col (s : List Byte) (acc : Word × Cols) (i : Nat) (k : Fin 8) :
    (parRun acc i s).2[k] =
      (((s.zipIdx i).filter fun x => x.2 % 8 == k.val).map Prod.fst).foldl (· ^^^ ·) acc.2[k] := by
  induction s generalizing acc i with
  | nil => rfl
  | cons b s ih =>
    rw [parRun_cons, ih, parStep_col, List.zipIdx_cons]
    by_cases hk : i % 8 = k.val
    · have hcol : k = colIndex i := Fin.ext hk.symm
      rw [if_pos hcol, List.filter_cons_of_pos (by simpa using hk), List.map_cons, List.foldl_cons]
    · have hcol : k ≠ colIndex i := fun h => hk (congrArg Fin.val h).symm
      rw [if_neg hcol, List.filter_cons_of_neg (by simpa using hk)]

/-- All columns start at zero (R90). -/
theorem colsZero_getElem (k : Fin 8) : colsZero[k] = 0 := Vector.getElem_replicate _

/-- Packing four bytes is concatenating them, the first one lowest (R93): bit `i` is read from byte `i / 8`, and the
bytes below that one have no bit so high. -/
theorem packBytes_eq_append (b0 b1 b2 b3 : Byte) : packBytes b0 b1 b2 b3 = b3 ++ b2 ++ b1 ++ b0 := by
  apply BitVec.eq_of_getLsbD_eq
  intro i hi
  have hbyte : i / 8 = 0 ∨ i / 8 = 1 ∨ i / 8 = 2 ∨ i / 8 = 3 := by omega
  simp only [packBytes, zext32, BitVec.getLsbD_or, BitVec.getLsbD_shiftLeft, BitVec.getLsbD_setWidth,
    BitVec.getLsbD_append]
  rcases hbyte with h | h | h | h <;> grind only [BitVec.getLsbD_of_ge]

/-- The row parity is `row_parity` (R92, R96). -/
theorem compute2DParity_row (s : List Byte) : (compute2DParity s).1 = rowParity s := parRun_row s 0 colsZero 0

/-- The column parity is the concatenation of the columns 3 to 0 (R93, R96). -/
theorem compute2DParity_col (s : List Byte) :
    (compute2DParity s).2 = (parAcc s).2[3] ++ (parAcc s).2[2] ++ (parAcc s).2[1] ++ (parAcc s).2[0] :=
  packBytes_eq_append _ _ _ _

/-- Settles O39: the row is `row_parity`, whose XOR may be taken from either end; the two values are instances. -/
theorem rowParityIsXorOfBytes : Obligations.RowParityIsXorOfBytes := by
  refine ⟨fun s => ?xor, (compute2DParity_row []).trans (by decide),
    (compute2DParity_row [0x01, 0x02]).trans (by decide)⟩
  rw [compute2DParity_row, rowParity, List.foldl_eq_foldr, zext32]

/-- Settles O40: each column from the run over its class, the packing and the row from the equations of
`compute2DParity`. -/
theorem columnIsXorOfItsClass : Obligations.ColumnIsXorOfItsClass := by
  intro s
  refine ⟨fun k => ?column, compute2DParity_col s, compute2DParity_row s⟩
  rw [parAcc, parRun_col, colsZero_getElem]

end Sys2Proof.Proofs

/-! The Fault Injector, one equation per constructor of the payload (spec/42_fault_injector.md R100). -/

namespace Sys2Proof.Proofs

open Sys2Proof Sys2Proof.Machine

@[simp] theorem inject_nil : inject [] = [] := rfl

/-- Only the first byte changes, by XOR with `INJECT_MASK` (R4, R100). -/
@[simp] theorem inject_cons (b : Byte) (p : List Byte) : inject (b :: p) = (b ^^^ 0x01) :: p := rfl

/-- Settles O43: the two equations of `inject`, the length it keeps, and the equation of a first byte at `0x41`. -/
theorem injectorFlipsBitZeroOfByteZero : Obligations.InjectorFlipsBitZeroOfByteZero := by
  refine ⟨inject_nil, inject_cons, inject_length, ?byteA⟩
  case byteA => rw [inject_cons]; decide

end Sys2Proof.Proofs

/-! The wire bytes of a header (spec/43_packet_codec.md R106): the byte at an offset, then byte `j` of field `m`. -/

namespace Sys2Proof.Proofs

open Sys2Proof Sys2Proof.Machine

/-- The wire byte at frame offset `k` (R106). -/
theorem hdrBytes_getElem? (h : Header) {k : Nat} (hk : k < 16) : (hdrBytes h).toList[k]? = some (hdrByte h k) := by
  rw [Vector.getElem?_toList, hdrBytes, Vector.getElem?_ofFn, dif_pos hk]

/-- Offset `4m + j` holds byte `j` of field `m` (R106). -/
theorem hdrByte_field (h : Header) (m : Nat) {j : Nat} (hj : j < 4) :
    hdrByte h (4 * m + j) = (hdrField h m).extractLsb' (8 * j) 8 := by
  have hfield : (4 * m + j) / 4 = m := by omega
  have hbyte : (4 * m + j) % 4 = j := by omega
  rw [hdrByte, hfield, hbyte, byteOf]

/-- R106's equation for the wire bytes. -/
theorem hdrBytes_field (h : Header) {m j : Nat} (hm : m < 4) (hj : j < 4) :
    (hdrBytes h).toList[4 * m + j]? = some ((hdrField h m).extractLsb' (8 * j) 8) := by
  rw [hdrBytes_getElem? h (by omega), hdrByte_field h m hj]

/-- Settles O45: R106's equation at the four fields, the length of the vector, and the spec's example computed. -/
theorem headerBytesAreLittleEndian : Obligations.HeaderBytesAreLittleEndian := by
  refine ⟨fun h j hj => ⟨?dataLen, hdrBytes_field h (m := 1) (by decide) hj,
    hdrBytes_field h (m := 2) (by decide) hj, hdrBytes_field h (m := 3) (by decide) hj⟩,
    fun _ => Vector.length_toList, ?headerA⟩
  case dataLen => simpa [hdrField] using hdrBytes_field h (m := 0) (by decide) hj
  case headerA => decide

end Sys2Proof.Proofs

/-! What `encode` answers (spec/43_packet_codec.md R110): the header of the given payload beside the transmitted one. -/

namespace Sys2Proof.Proofs

open Sys2Proof Sys2Proof.Machine

/-- A payload whose length the field can hold is framed (R110, R116). -/
theorem encodePacket_of_lt {p : List Byte} (hp : p.length < 2 ^ 32) (j : Bool) :
    encodePacket p j = some (headerOf p, transmitted p j) := if_pos hp

/-- The length field of a payload that `encode` accepts is exact (R105, R116). -/
theorem headerOf_dataLen_toNat {p : List Byte} (hp : p.length < 2 ^ 32) : (headerOf p).dataLen.toNat = p.length := by
  rw [headerOf, BitVec.toNat_ofNat, Nat.mod_eq_of_lt hp]

/-- R109: a frame is 16 bytes longer than its payload. -/
@[simp] theorem frame_length (h : Header) (q : List Byte) : (frame h q).length = 16 + q.length := by
  rw [frame, List.length_append, Vector.length_toList]

/-- The header of the empty payload is all zero. -/
theorem headerOf_nil : headerOf [] = ⟨0, 0, 0, 0⟩ := by
  have hcrc : computeCRC32 [] = 0 := crcFixedPoints.1
  rw [headerOf, hcrc]
  decide

/-- The spec's example header (R105). -/
theorem headerOf_0x41 : headerOf [0x41] = ⟨1, 0xD3D99E8B, 0x41, 0x41⟩ := by
  have hcrc : computeCRC32 [0x41] = 0xD3D99E8B := crcFixedPoints.2
  rw [headerOf, hcrc]
  decide

/-- Settles O47: the answer of `encode` gives the header from `p` alone and `transmitted` the payload; the examples are
its instances at the two example headers. -/
theorem encodeTakesHeaderFromOriginalPayload : Obligations.EncodeTakesHeaderFromOriginalPayload := by
  refine ⟨fun p j hp => ⟨headerOf p, transmitted p j, encodePacket_of_lt hp j, headerOf_dataLen_toNat hp, rfl, rfl, rfl,
    transmitted_length p j, ?frame⟩, ?plainA, ?injectedA, ?empty⟩
  case frame => rw [frame_length, transmitted_length]
  case plainA => rw [encodePacket_of_lt (by decide), headerOf_0x41]; rfl
  case injectedA => rw [encodePacket_of_lt (by decide), headerOf_0x41]; rfl
  case empty => rw [encodePacket_of_lt (by decide), headerOf_nil]; rfl

end Sys2Proof.Proofs

/-! A command that does not pass the common checks (spec/60_exceptions.md R158), and CLR (spec/44_transmit_ops.md
R120). -/

namespace Sys2Proof.Proofs

open Sys2Proof Sys2Proof.Machine

/-- Every command in a phase that does not accept it takes PhaseError (R152). -/
theorem exec_wrong_phase {i : Instr} {s : State} (herr : s.err = none) (hphase : accepts i s.phase = false) :
    exec i s = .next (faulted .phaseError s) := by
  cases i <;> exact checked_wrong_phase _ herr hphase

/-- The phases in which CLR starts a message are those that accept it (R160). -/
theorem accepts_clr_iff_canStart (s : State) : accepts .clr s.phase = true ↔ canStart s := by
  cases h : s.phase <;> simp [accepts, canStart, h]

theorem exec_clr {s : State} (herr : s.err = none) (hstart : canStart s) :
    exec .clr s = .next (answer 0 0 (enter .absorb (start s))) :=
  checked_ready _ ⟨herr, (accepts_clr_iff_canStart s).mpr hstart⟩

/-- Settles O18: the common initialisation where CLR is accepted, PhaseError in the three other phases. -/
theorem clrStartsMessage : Obligations.ClrStartsMessage := by
  refine ⟨rfl, fun s herr => ⟨fun hstart => exec_clr herr hstart, fun hbusy => exec_wrong_phase herr ?_⟩⟩
  obtain h | h | h := hbusy <;> rw [h] <;> rfl

end Sys2Proof.Proofs

/-! PUSH (spec/44_transmit_ops.md R121): the byte in the buffer and through the engines. -/

namespace Sys2Proof.Proofs

open Sys2Proof Sys2Proof.Machine

/-- PUSH is accepted in ABSORB alone (R160). -/
theorem accepts_push_eq_false (b : Byte) {s : State} (h : s.phase ≠ .absorb) : accepts (.push b) s.phase = false :=
  Bool.eq_false_of_not_eq_true (mt absorb_of_accepts h)

theorem accepts_push_of_absorb (b : Byte) {s : State} (h : s.phase = .absorb) : accepts (.push b) s.phase = true := by
  rw [h]; rfl

/-- PUSH into a full buffer takes BufferFull (R121, R153). -/
theorem exec_push_full {s : State} (b : Byte) (herr : s.err = none) (hphase : s.phase = .absorb)
    (hfull : s.len = s.cfg.bufBytes) : exec (.push b) s = .next (faulted .bufferFull s) :=
  (checked_ready _ ⟨herr, accepts_push_of_absorb b hphase⟩).trans (if_pos hfull)

/-- PUSH with room stores the byte at `LEN` and absorbs it (R121). -/
theorem exec_push_room {s : State} (b : Byte) (herr : s.err = none) (hphase : s.phase = .absorb)
    (hroom : s.len.toNat < s.cfg.bufBytes.toNat) :
    exec (.push b) s = .next (answer 0 0 (absorb b (writeBuf s s.len.toNat b))) := by
  have hne : s.len ≠ s.cfg.bufBytes := fun h => hroom.ne (congrArg BitVec.toNat h)
  calc exec (.push b) s
      = memWrite s s.len.toNat b fun t => respond 0 0 (absorb b t) :=
        (checked_ready _ ⟨herr, accepts_push_of_absorb b hphase⟩).trans (if_neg hne)
    _ = .next (answer 0 0 (absorb b (writeBuf s s.len.toNat b))) := memWrite_inside _ _ hroom

/-- A counter below some 32-bit value counts on without wrapping. -/
theorem toNat_add_one_of_lt {x y : Word} (h : x.toNat < y.toNat) : (x + 1).toNat = x.toNat + 1 := by
  have hy := y.isLt
  have hsum : x.toNat + (1 : Word).toNat < 2 ^ 32 := Nat.lt_of_le_of_lt h hy
  exact BitVec.toNat_add_of_lt hsum

/-- Settles O19: one equation of PUSH per case; with room, the fields from the rules of `absorb` and `writeBuf`. -/
theorem pushAbsorbsOneByte : Obligations.PushAbsorbsOneByte := by
  refine fun s b => ⟨rfl, fun herr hphase => exec_wrong_phase herr (accepts_push_eq_false b hphase),
    exec_push_full b, fun herr hphase hroom =>
      ⟨_, exec_push_room b herr hphase hroom, rfl, rfl, ?column, ?len, ?stored, ?others, rfl⟩⟩
  case column =>
    intro k
    have hk : k = colIndex s.len.toNat ↔ k.val = s.len.toNat % 8 := Fin.ext_iff
    simp only [answer_col, absorb_col, writeBuf_col, writeBuf_len, parStep_col, hk]
  case len => exact toNat_add_one_of_lt hroom
  case stored => exact readBuf_writeBuf_same s _ b
  case others => exact fun a ha => readBuf_writeBuf_other s b ha

end Sys2Proof.Proofs

/-! ENC (spec/44_transmit_ops.md R122): the header from the engines, the buffer as `encode` transmits it. -/

namespace Sys2Proof.Proofs

open Sys2Proof Sys2Proof.Machine

theorem accepts_enc_eq_false (j : Bool) {s : State} (h : s.phase ≠ .absorb) : accepts (.enc j) s.phase = false :=
  accepts_push_eq_false 0 h

theorem accepts_enc_of_absorb (j : Bool) {s : State} (h : s.phase = .absorb) : accepts (.enc j) s.phase = true :=
  accepts_push_of_absorb 0 h

/-- ENC that injects: asked for, and there is a byte 0 (R122). -/
theorem exec_enc_inject {s : State} {j : Bool} (herr : s.err = none) (hphase : s.phase = .absorb)
    (hcap : 0 < s.cfg.bufBytes.toNat) (hinj : j = true ∧ s.len ≠ 0) :
    exec (.enc j) s =
      .next (answer 0 0 (enter .emit (rewind true (writeBuf (freezeHeader s) 0 (injectByte (readBuf s 0)))))) := by
  calc exec (.enc j) s
      = memRead (freezeHeader s) 0 fun v => memWrite (freezeHeader s) 0 (injectByte v) fun t => beginEmit true t :=
        (checked_ready _ ⟨herr, accepts_enc_of_absorb j hphase⟩).trans (if_pos hinj)
    _ = memWrite (freezeHeader s) 0 (injectByte (readBuf s 0)) fun t => beginEmit true t := memRead_inside _ hcap
    _ = beginEmit true (writeBuf (freezeHeader s) 0 (injectByte (readBuf s 0))) := memWrite_inside _ _ hcap

/-- ENC that does not inject leaves the buffer alone (R122). -/
theorem exec_enc_plain {s : State} {j : Bool} (herr : s.err = none) (hphase : s.phase = .absorb)
    (hinj : ¬(j = true ∧ s.len ≠ 0)) :
    exec (.enc j) s = .next (answer 0 0 (enter .emit (rewind false (freezeHeader s)))) :=
  (checked_ready _ ⟨herr, accepts_enc_of_absorb j hphase⟩).trans (if_neg hinj)

/-- The frozen header, with the complement and the packing written out (R84, R93). -/
theorem freezeHeader_hdr_eq (s : State) :
    (freezeHeader s).hdr = ⟨s.len, s.crc ^^^ 0xFFFFFFFF, s.row, s.col[3] ++ s.col[2] ++ s.col[1] ++ s.col[0]⟩ := by
  have hcrc : crcOut s.crc = s.crc ^^^ 0xFFFFFFFF := BitVec.xor_allOnes.symm
  have hcol : colLow s.col = s.col[3] ++ s.col[2] ++ s.col[1] ++ s.col[0] := packBytes_eq_append _ _ _ _
  rw [freezeHeader_hdr, hcrc, hcol]

/-- The header frozen from engines that hold `p` is that of `p` (R105, R122). -/
theorem freezeHeader_hdr_of_enginesHold {s : State} {p : List Byte} (h : enginesHold s p) :
    (freezeHeader s).hdr = headerOf p := by
  obtain ⟨hlen, hcrc, hpar⟩ := h
  have hrow : s.row = (parAcc p).1 := congrArg Prod.fst hpar
  have hcol : s.col = (parAcc p).2 := congrArg Prod.snd hpar
  simp only [freezeHeader_hdr, headerOf, computeCRC32, compute2DParity, hlen, hcrc, hrow, hcol, BitVec.ofNat_toNat,
    BitVec.setWidth_eq]

/-- What `encode` answers for the payload that the engines hold (R110, R122). -/
theorem encodePacket_of_enginesHold {s : State} {p : List Byte} (h : enginesHold s p) (j : Bool) :
    encodePacket p j = some ((freezeHeader s).hdr, transmitted p j) := by
  rw [encodePacket_of_lt (h.1 ▸ s.len.isLt), freezeHeader_hdr_of_enginesHold h]

/-- Flipping bit 0 of `BUF[0]` injects into every part of the buffer that starts there (R100). -/
theorem bufPrefix_writeBuf_inject (s : State) (n : Nat) :
    bufPrefix (writeBuf s 0 (injectByte (readBuf s 0))) n = inject (bufPrefix s n) := by
  cases n with
  | zero => rfl
  | succ n =>
    simp only [bufPrefix, List.range_succ_eq_map, List.map_cons, List.map_map, readBuf_writeBuf_same, inject]
    exact congrArg _ (List.map_congr_left fun a _ => readBuf_writeBuf_other s _ (Nat.succ_ne_zero a))

/-- Without a byte 0 to inject into, or without the request, the payload is transmitted as it is (R101, R110). -/
theorem transmitted_of_not_inject {p : List Byte} {j : Bool} (h : ¬(j = true ∧ p ≠ [])) : transmitted p j = p := by
  cases j with
  | false => rfl
  | true => rw [not_not.mp fun hp => h ⟨rfl, hp⟩]; rfl

/-- Settles O20: ENC's two equations; the buffer is injected into in the first and left alone in the second. -/
theorem encFreezesHeaderThenInjects : Obligations.EncFreezesHeaderThenInjects := by
  intro s j
  refine ⟨?word, fun herr hphase => exec_wrong_phase herr (accepts_enc_eq_false j hphase), fun herr hphase hcap => ?_⟩
  case word => cases j <;> rfl
  by_cases hinj : j = true ∧ s.len ≠ 0
  · refine ⟨_, exec_enc_inject herr hphase hcap hinj, freezeHeader_hdr_eq s, fun a => readBuf_writeBuf_other _ _,
      fun _ => ⟨readBuf_writeBuf_same _ _ _, rfl⟩, ?excluded, rfl, fun p hp hbuf => ?encoded⟩
    case excluded =>
      rintro (rfl | hzero)
      · exact absurd hinj.1 Bool.false_ne_true
      · exact absurd hzero hinj.2
    case encoded =>
      have hbytes : bufPrefix (writeBuf (freezeHeader s) 0 (injectByte (readBuf s 0))) s.len.toNat = inject p :=
        (bufPrefix_writeBuf_inject (freezeHeader s) _).trans (congrArg inject hbuf)
      rw [encodePacket_of_enginesHold hp, hinj.1]
      exact congrArg (fun q => some ((freezeHeader s).hdr, q)) hbytes.symm
  · refine ⟨_, exec_enc_plain herr hphase hinj, freezeHeader_hdr_eq s, fun _ _ => rfl,
      fun h => absurd h hinj, fun _ => ⟨rfl, rfl⟩, rfl, fun p hp hbuf => ?encoded⟩
    case encoded =>
      have hlen : p ≠ [] → s.len ≠ 0 := fun hne h0 => hne (List.length_eq_zero_iff.mp (by rw [hp.1, h0]; rfl))
      rw [encodePacket_of_enginesHold hp, transmitted_of_not_inject (mt (And.imp_right hlen) hinj)]
      exact congrArg (fun q => some ((freezeHeader s).hdr, q)) hbuf.symm

end Sys2Proof.Proofs

/-! POP (spec/44_transmit_ops.md R123): the response's fields, the byte at the frame offset `HPOS + PPOS`, and the
command. -/

namespace Sys2Proof.Proofs

open Sys2Proof Sys2Proof.Machine

/-! ### The response -/

/-- Every bit of a POP response's data (R67): the fields do not overlap. -/
theorem popData_getLsbD (b : Byte) (last hdr : Bool) {i : Nat} (hi : i < 32) :
    (popData b last hdr).getLsbD i = (b.getLsbD i || (decide (i = 8) && last) || (decide (i = 9) && hdr)) := by
  simp only [popData, zext32, BitVec.getLsbD_or, flagWord_shiftLeft_getLsbD _ _ _ hi, BitVec.getLsbD_setWidth, hi,
    decide_true, Bool.true_and]

@[simp] theorem popData_last (b : Byte) (last hdr : Bool) : (popData b last hdr).getLsbD 8 = last := by
  rw [popData_getLsbD b last hdr (by decide)]
  simp [BitVec.getLsbD_of_ge]

@[simp] theorem popData_hdr (b : Byte) (last hdr : Bool) : (popData b last hdr).getLsbD 9 = hdr := by
  rw [popData_getLsbD b last hdr (by decide)]
  simp [BitVec.getLsbD_of_ge]

@[simp] theorem popData_byte (b : Byte) (last hdr : Bool) : (popData b last hdr).extractLsb' 0 8 = b := by
  apply BitVec.eq_of_getLsbD_eq
  intro i hi
  have hlow : i ≠ 8 ∧ i ≠ 9 := by omega
  rw [BitVec.getLsbD_extractLsb', Nat.zero_add, popData_getLsbD b last hdr (by omega)]
  simp [hi, hlow]

@[simp] theorem popData_reserved (b : Byte) (last hdr : Bool) : (popData b last hdr).extractLsb' 10 22 = 0 := by
  apply BitVec.eq_of_getLsbD_eq
  intro i hi
  have hhigh : 8 ≤ 10 + i ∧ 10 + i ≠ 8 ∧ 10 + i ≠ 9 := by omega
  rw [BitVec.getLsbD_extractLsb', popData_getLsbD b last hdr (by omega)]
  simp [hhigh, BitVec.getLsbD_of_ge]

/-! ### The frame -/

/-- The first 16 bytes of a frame are the header's (R108). -/
theorem frame_getElem?_header (h : Header) (q : List Byte) {k : Nat} (hk : k < 16) :
    (frame h q)[k]? = some (hdrByte h k) := by
  rw [frame, List.getElem?_append_left (by rwa [Vector.length_toList]), hdrBytes_getElem? h hk]

/-- The payload of a frame starts at offset 16 (R108). -/
theorem frame_getElem?_payload (h : Header) (q : List Byte) (k : Nat) : (frame h q)[16 + k]? = q[k]? := by
  rw [frame, List.getElem?_append_right (by rw [Vector.length_toList]; omega), Vector.length_toList,
    Nat.add_sub_cancel_left]

theorem bufPrefix_getElem? (s : State) {n k : Nat} (hk : k < n) : (bufPrefix s n)[k]? = some (readBuf s k) := by
  rw [bufPrefix, List.getElem?_map, List.getElem?_range hk, Option.map_some]

/-- While header bytes are left, no payload byte has gone: `HPOS + PPOS` is the header byte's offset (R26 (e)). -/
theorem frame_at_header_byte {s : State} (hinv : BlockInv s) (hphase : s.phase = .emit) (hhdr : s.hpos.toNat < 16) :
    (frame s.hdr (bufPrefix s s.hdr.dataLen.toNat))[s.hpos.toNat + s.ppos.toNat]? =
      some (hdrByte s.hdr s.hpos.toNat) := by
  obtain ⟨-, -, hlate⟩ := hinv.emitted (.inl hphase)
  have hppos : s.ppos.toNat = 0 := by
    by_contra hne
    exact hhdr.ne (hpos_eq_16.mp (hlate (Nat.pos_of_ne_zero hne)))
  rw [hppos, Nat.add_zero, frame_getElem?_header _ _ hhdr]

/-- Once the header has gone, `HPOS + PPOS` is the offset of payload byte `PPOS`, which the frame has (R26 (b)). -/
theorem frame_at_payload_byte {s : State} (hinv : BlockInv s) (hphase : s.phase = .emit) (hpay : 16 ≤ s.hpos.toNat) :
    (frame s.hdr (bufPrefix s s.hdr.dataLen.toNat))[s.hpos.toNat + s.ppos.toNat]? =
      some (readBuf s s.ppos.toNat) := by
  have hpos : s.hpos.toNat = 16 := le_antisymm hinv.headerCount hpay
  obtain ⟨hleft, -⟩ := hinv.emitting hphase
  rw [hpos, frame_getElem?_payload, bufPrefix_getElem? s (hleft.resolve_left hpay.not_gt)]

/-! ### The command -/

theorem accepts_pop_eq_false {s : State} (h : s.phase ≠ .emit) : accepts .pop s.phase = false :=
  Bool.eq_false_of_not_eq_true (mt emit_of_accepts h)

theorem ready_pop {s : State} (herr : s.err = none) (hphase : s.phase = .emit) : ready .pop s :=
  ⟨herr, by rw [hphase]; rfl⟩

/-- The counters say that the frame's last byte has gone (R123). -/
def frameSent (t : State) : Prop := t.hpos = 16 ∧ t.ppos = t.hdr.dataLen

/-- Staying in EMIT changes nothing. -/
theorem enter_emit_of_emit {t : State} (hphase : t.phase = .emit) : enter .emit t = t := by
  rw [← hphase]; rfl

/-- The end of POP answers the byte with its marks, and leaves EMIT on the last byte alone (R123). -/
theorem emitByte_next (b : Byte) (hdr : Bool) {t : State} (hphase : t.phase = .emit) :
    ∃ data, emitByte b hdr t = .next (answer 0 data (enter (if data.getLsbD 8 then .done else .emit) t)) ∧
      data.extractLsb' 0 8 = b ∧ (data.getLsbD 8 = true ↔ frameSent t) ∧ data.getLsbD 9 = hdr ∧
      data.extractLsb' 10 22 = 0 := by
  obtain ⟨hhpos, hppos, heq⟩ | ⟨hnot, heq⟩ := emitByte_cases b hdr t
  · refine ⟨popData b true hdr, ?_, popData_byte b true hdr, ?_, popData_hdr b true hdr, popData_reserved b true hdr⟩
    · rw [heq, popData_last]; rfl
    · rw [popData_last]; exact iff_of_true rfl ⟨hhpos, hppos⟩
  · refine ⟨popData b false hdr, ?_, popData_byte b false hdr, ?_, popData_hdr b false hdr,
      popData_reserved b false hdr⟩
    · rw [heq, popData_last, if_neg Bool.false_ne_true, enter_emit_of_emit hphase]
    · rw [popData_last]; exact iff_of_false Bool.false_ne_true hnot

/-- POP with header bytes left emits the one at `HPOS` (R123). -/
theorem exec_pop_header {s : State} (herr : s.err = none) (hphase : s.phase = .emit) (hhdr : s.hpos.toNat < 16) :
    exec .pop s = emitByte (hdrByte s.hdr s.hpos.toNat) true (countHeaderByte s) :=
  (checked_ready _ (ready_pop herr hphase)).trans (if_pos hhdr)

/-- POP after the header emits the payload byte at `PPOS` (R123). -/
theorem exec_pop_payload {s : State} (herr : s.err = none) (hphase : s.phase = .emit) (hpay : 16 ≤ s.hpos.toNat)
    (hbuf : s.ppos.toNat < s.cfg.bufBytes.toNat) :
    exec .pop s = emitByte (readBuf s s.ppos.toNat) false (countPayloadByte s) :=
  calc exec .pop s
      = memRead s s.ppos.toNat fun v => emitByte v false (countPayloadByte s) :=
        (checked_ready _ (ready_pop herr hphase)).trans (if_neg hpay.not_gt)
    _ = emitByte (readBuf s s.ppos.toNat) false (countPayloadByte s) := memRead_inside _ hbuf

/-- Settles O21: a header byte or a payload byte is emitted, and it is the frame's at that offset. -/
theorem popEmitsNextFrameByte : Obligations.PopEmitsNextFrameByte := by
  refine ⟨rfl, fun s herr => ⟨fun hphase => exec_wrong_phase herr (accepts_pop_eq_false hphase),
    fun hphase hin => ?_⟩⟩
  by_cases hhdr : s.hpos.toNat < 16
  · obtain ⟨data, hnext, hbyte, hlast, hmark, hzero⟩ :=
      emitByte_next (hdrByte s.hdr s.hpos.toNat) true (t := countHeaderByte s) hphase
    refine ⟨_, data, (exec_pop_header herr hphase hhdr).trans hnext, rfl, fun _ => ⟨rfl, rfl, hmark, ?byte⟩,
      fun hpay => absurd hhdr hpay.not_gt, hlast, rfl, hzero, fun hinv => ?frame⟩
    case byte => rw [hbyte, hdrBytes_getElem? _ hhdr]
    case frame => rw [hbyte, frame_at_header_byte hinv hphase hhdr]
  · have hpay : 16 ≤ s.hpos.toNat := Nat.le_of_not_lt hhdr
    have hbuf : s.ppos.toNat < s.cfg.bufBytes.toNat := hin.resolve_left hhdr
    obtain ⟨data, hnext, hbyte, hlast, hmark, hzero⟩ :=
      emitByte_next (readBuf s s.ppos.toNat) false (t := countPayloadByte s) hphase
    refine ⟨_, data, (exec_pop_payload herr hphase hpay hbuf).trans hnext, rfl, fun h => absurd h hhdr,
      fun _ => ⟨rfl, rfl, hmark, hbyte⟩, hlast, rfl, hzero, fun hinv => ?frame⟩
    case frame => rw [hbyte, frame_at_payload_byte hinv hphase hpay]

end Sys2Proof.Proofs

/-! RXS (spec/45_receive_ops.md R130): the common initialisation, accepted where CLR is (spec/60_exceptions.md R160). -/

namespace Sys2Proof.Proofs

open Sys2Proof Sys2Proof.Machine

theorem accepts_rxs_eq_clr (p : Phase) : accepts .rxs p = accepts .clr p := rfl

theorem exec_rxs {s : State} (herr : s.err = none) (hstart : canStart s) :
    exec .rxs s = .next (answer 0 0 (enter .rxhdr (start s))) :=
  checked_ready _ ⟨herr, (accepts_rxs_eq_clr s.phase).trans ((accepts_clr_iff_canStart s).mpr hstart)⟩

/-- Settles O25: the common initialisation where RXS is accepted, PhaseError in the three other phases. -/
theorem rxsStartsReception : Obligations.RxsStartsReception := by
  refine ⟨rfl, fun s herr => ⟨fun hstart => exec_rxs herr hstart, fun hbusy => exec_wrong_phase herr ?_⟩⟩
  obtain h | h | h := hbusy <;> rw [h] <;> rfl

end Sys2Proof.Proofs

/-! RXE (spec/45_receive_ops.md R132), and the two phases of the receive path (spec/60_exceptions.md R160). -/

namespace Sys2Proof.Proofs

open Sys2Proof Sys2Proof.Machine

/-- RXE is accepted in RXHDR and RXPAY alone (R160). -/
theorem accepts_rxe_eq_false {s : State} (hhdr : s.phase ≠ .rxhdr) (hpay : s.phase ≠ .rxpay) :
    accepts .rxe s.phase = false :=
  Bool.eq_false_of_not_eq_true fun h => (rx_of_accepts h).elim hhdr hpay

theorem accepts_rxe_of_rx {s : State} (h : s.phase = .rxhdr ∨ s.phase = .rxpay) : accepts .rxe s.phase = true := by
  obtain h | h := h <;> rw [h] <;> rfl

/-- RXE before any byte of a frame: the stream is closed (R132). -/
theorem exec_rxe_closed {s : State} (herr : s.err = none) (hphase : s.phase = .rxhdr) (hpos : s.hpos = 0) :
    exec .rxe s = .next (answer 0 4 (enter .done s)) :=
  (checked_ready _ ⟨herr, accepts_rxe_of_rx (.inl hphase)⟩).trans (if_pos ⟨hphase, hpos⟩)

/-- RXE inside a frame: the frame is malformed (R132). -/
theorem exec_rxe_malformed {s : State} (herr : s.err = none) (hphase : s.phase = .rxhdr ∨ s.phase = .rxpay)
    (hinside : ¬(s.phase = .rxhdr ∧ s.hpos = 0)) :
    exec .rxe s = .next (answer 0 3 (enter .done (setMalformed s))) :=
  (checked_ready _ ⟨herr, accepts_rxe_of_rx hphase⟩).trans (if_neg hinside)

/-- Settles O28: StreamClosed at `HPOS` 0 in RXHDR, MalformedFrame in the rest of the two receive phases. -/
theorem rxeEndsReception : Obligations.RxeEndsReception := by
  refine ⟨rfl, fun s herr => ⟨fun hhdr hpay => exec_wrong_phase herr (accepts_rxe_eq_false hhdr hpay),
    fun hphase hpos => exec_rxe_closed herr hphase hpos,
    fun hphase hpos => exec_rxe_malformed herr (.inl hphase) fun h => hpos h.2,
    fun hphase => exec_rxe_malformed herr (.inr hphase) fun h => ?_⟩⟩
  exact Phase.noConfusion (hphase.symm.trans h.1)

end Sys2Proof.Proofs

/-! The verdict procedure (spec/45_receive_ops.md R133): what it leaves, and that the RXB that completes a frame runs
it. -/

namespace Sys2Proof.Proofs

open Sys2Proof Sys2Proof.Machine

/-- The final complement is the XOR with all ones (R84). -/
theorem crcOut_eq_xor (r : Word) : crcOut r = r ^^^ 0xFFFFFFFF := BitVec.xor_allOnes.symm

/-- The low columns as a word, column 0 lowest (R93). -/
theorem colLow_eq_append (cols : Cols) : colLow cols = cols[3] ++ cols[2] ++ cols[1] ++ cols[0] :=
  packBytes_eq_append _ _ _ _

theorem verdictCode_verdictOf (m : Mismatch) :
    verdictCode (verdictOf m) = if m.crcBad || m.rowBad || m.colBad then 2 else 1 :=
  apply_ite verdictCode _ _ _

/-- The verdict procedure records each of the three comparisons and answers their verdict's code (R133). -/
theorem verdictGiven_afterVerdict (u : State) : verdictGiven (afterVerdict u) := by
  refine ⟨rfl, ?crc, bne_iff_ne, ?col, ?code⟩
  case crc => exact crcOut_eq_xor u.crc ▸ bne_iff_ne
  case col => exact colLow_eq_append u.col ▸ bne_iff_ne
  case code => exact congrArg (fun d => some (⟨0, d⟩ : Response)) (verdictCode_verdictOf (compareHeader u))

/-- An RXB that ends in DONE has run the verdict procedure on a state with the `ERR` from before (R131). -/
theorem afterVerdict_of_rxb_done {s t : State} {b : Byte} (hown : OwnRule (.rxb b) s t) (hdone : t.phase = .done) :
    ∃ u, u.err = s.err ∧ t = afterVerdict u := by
  obtain ⟨hphase, ⟨-, rfl⟩ | ⟨-, -, rfl⟩ | ⟨-, -, rfl⟩⟩ | ⟨hphase, ⟨-, rfl⟩ | ⟨-, rfl⟩⟩ := hown
  · exact Phase.noConfusion (hphase.symm.trans hdone)
  · exact ⟨placeHeaderByte b s, rfl, rfl⟩
  · exact Phase.noConfusion hdone
  · exact ⟨absorb b s, rfl, rfl⟩
  · exact Phase.noConfusion (hphase.symm.trans hdone)

/-- The phases that accept RXB are those that accept RXE (R160). -/
theorem accepts_rxb_eq_rxe (b : Byte) (p : Phase) : accepts (.rxb b) p = accepts .rxe p := rfl

theorem ready_rxb (b : Byte) {s : State} (herr : s.err = none) (hphase : s.phase = .rxhdr ∨ s.phase = .rxpay) :
    ready (.rxb b) s :=
  ⟨herr, (accepts_rxb_eq_rxe b s.phase).trans (accepts_rxe_of_rx hphase)⟩

/-- Settles O27: the checks pass, so the completing RXB has run the verdict procedure. -/
theorem verdictComparesAllThreeFields : Obligations.VerdictComparesAllThreeFields := by
  intro s t b herr hphase hexec hdone
  obtain ⟨-, hacc⟩ := ready_rxb b herr hphase
  obtain ⟨hhalted, -⟩ | ⟨-, hrefused, -⟩ | ⟨-, -, hown⟩ := exec_cases hexec
  · exact absurd herr hhalted
  · exact Bool.noConfusion (hacc.symm.trans hrefused)
  · obtain ⟨u, huerr, rfl⟩ := afterVerdict_of_rxb_done hown hdone
    exact ⟨verdictGiven_afterVerdict u, huerr.trans herr⟩

end Sys2Proof.Proofs

/-! The header byte at one offset replaced (spec/45_receive_ops.md R131): that byte, and every other as before. -/

namespace Sys2Proof.Proofs

open Sys2Proof Sys2Proof.Machine

/-- A byte's mask has the bits 0 to 7. -/
theorem byteMask_getLsbD (i : Nat) : (0xFF : Word).getLsbD i = decide (i < 8) := by
  have hmask : (0xFF : Word) = (BitVec.allOnes 8).setWidth 32 := rfl
  have hlow : i < 8 → i < 32 := fun h => by omega
  rw [hmask, BitVec.getLsbD_setWidth, BitVec.getLsbD_allOnes, ← Bool.decide_and, decide_eq_decide]
  exact and_iff_right_of_imp hlow

/-- Every bit of a field after its byte `j` was replaced: the bits `8j` to `8j+7` are the byte's (R131). -/
theorem setByte_getLsbD (f : Word) (j : Nat) (b : Byte) {i : Nat} (hi : i < 32) :
    (setByte f j b).getLsbD i = if i / 8 = j then b.getLsbD (i % 8) else f.getLsbD i := by
  simp only [setByte, zext32, BitVec.getLsbD_or, BitVec.getLsbD_and, BitVec.getLsbD_not, BitVec.getLsbD_shiftLeft,
    BitVec.getLsbD_setWidth, byteMask_getLsbD, hi, decide_true, Bool.true_and]
  obtain hlt | rfl | hgt := Nat.lt_trichotomy (i / 8) j
  · have hbelow : i < 8 * j := by omega
    simp [hbelow, hlt.ne]
  · have hfrom : ¬i < 8 * (i / 8) := by omega
    have hmod : i - 8 * (i / 8) = i % 8 := by omega
    have hbyte : i % 8 < 8 ∧ i % 8 < 32 := by omega
    simp [hfrom, hmod, hbyte]
  · have habove : ¬i < 8 * j ∧ ¬i - 8 * j < 8 := by omega
    simp [habove, hgt.ne', BitVec.getLsbD_of_ge b _ (Nat.le_of_not_lt habove.2)]

/-- Replacing byte `j` of a field sets that byte and keeps the three others (R131). -/
theorem byteOf_setByte (f : Word) (j : Nat) (b : Byte) {l : Nat} (hl : l < 4) :
    byteOf (setByte f j b) l = if l = j then b else byteOf f l := by
  apply BitVec.eq_of_getLsbD_eq
  intro i hi
  have hdiv : (8 * l + i) / 8 = l := by omega
  have hmod : (8 * l + i) % 8 = i := by omega
  rw [byteOf, BitVec.getLsbD_extractLsb', setByte_getLsbD f j b (by omega), hdiv, hmod]
  split <;> simp [byteOf, hi]

/-- Replacing the byte at offset `k` changes field `k / 4` alone (R131). -/
theorem hdrField_setHdrByte (h : Header) (b : Byte) {k m : Nat} (hk : k / 4 < 4) (hm : m < 4) :
    hdrField (setHdrByte h k b) m = if m = k / 4 then setByte (hdrField h m) (k % 4) b else hdrField h m := by
  unfold setHdrByte
  generalize k / 4 = q at hk ⊢
  interval_cases q <;> interval_cases m <;> rfl

/-- Replacing the byte at offset `k` sets that byte of the header and keeps the 15 others (R131). -/
theorem hdrByte_setHdrByte (h : Header) (b : Byte) {k n : Nat} (hk : k < 16) (hn : n < 16) :
    hdrByte (setHdrByte h k b) n = if n = k then b else hdrByte h n := by
  rw [hdrByte, hdrField_setHdrByte h b (by omega) (by omega)]
  by_cases hfield : n / 4 = k / 4
  · have hoffset : n % 4 = k % 4 ↔ n = k := by omega
    simp only [if_pos hfield, byteOf_setByte _ _ b (Nat.mod_lt n (by decide)), hoffset, hdrByte]
  · have hne : n ≠ k := fun h => hfield (congrArg (· / 4) h)
    rw [if_neg hfield, if_neg hne, hdrByte]

end Sys2Proof.Proofs

/-! RXB (spec/45_receive_ops.md R131): the byte in its place, then More, the next phase, or the verdict. -/

namespace Sys2Proof.Proofs

open Sys2Proof Sys2Proof.Machine

/-- What RXB does once the byte is in its place in `u`: it enters phase `p`, answers More short of DONE and gives the
verdict at DONE, and changes nothing else (R131). -/
structure ByteReceived (p : Phase) (u t : State) : Prop where
  frame : t = { u with
    phase := p, vValid := t.vValid, crcBad := t.crcBad, rowBad := t.rowBad, colBad := t.colBad, rsp := t.rsp }
  more : p ≠ .done → t.rsp = some ⟨0, 0⟩ ∧ sameVerdict u t
  verdict : p = .done → verdictGiven t

/-- Answering More in another phase than DONE. -/
theorem byteReceived_more {p : Phase} (u : State) (hp : p ≠ .done) : ByteReceived p u (answer 0 0 (enter p u)) :=
  ⟨rfl, fun _ => ⟨rfl, rfl, rfl, rfl, rfl⟩, fun h => absurd h hp⟩

/-- Answering More in the phase the byte found. -/
theorem byteReceived_stay {u : State} (hp : u.phase ≠ .done) : ByteReceived u.phase u (answer 0 0 u) :=
  byteReceived_more u hp

theorem byteReceived_afterVerdict (u : State) : ByteReceived .done u (afterVerdict u) :=
  ⟨rfl, fun h => absurd rfl h, fun _ => verdictGiven_afterVerdict u⟩

section
variable {p : Phase} {u t : State} (h : ByteReceived p u t)
include h

theorem ByteReceived.phase_eq : t.phase = p := by rw [h.frame]

theorem ByteReceived.hdr_eq : t.hdr = u.hdr := by rw [h.frame]

theorem ByteReceived.hpos_eq : t.hpos = u.hpos := by rw [h.frame]

theorem ByteReceived.sameEngines : sameEngines u t := by rw [h.frame]; exact ⟨rfl, rfl, rfl, rfl⟩

theorem ByteReceived.sameBuffer : sameBuffer u t := by rw [h.frame]; exact fun _ => rfl

end

/-- The phase after a header byte, `u` with the byte in place (R131). -/
def phaseAfterHeaderByte (u : State) : Phase :=
  if u.hpos.toNat < 16 then .rxhdr else if u.hdr.dataLen = 0 then .done else .rxpay

/-- The phase after a payload byte, `u` with the byte absorbed (R131). -/
def phaseAfterPayloadByte (u : State) : Phase := if u.len = u.hdr.dataLen then .done else .rxpay

/-- A header byte is received: fewer than 16 bytes, a complete empty frame, or a payload to come (R131). -/
theorem afterHeaderByte_next {u : State} (hphase : u.phase = .rxhdr) :
    ∃ t, afterHeaderByte u = .next t ∧ ByteReceived (phaseAfterHeaderByte u) u t := by
  obtain ⟨hpos, hnext⟩ | ⟨hpos, hlen, hnext⟩ | ⟨hpos, hlen, hnext⟩ := afterHeaderByte_cases u
  · have hp : phaseAfterHeaderByte u = u.phase := (if_pos hpos).trans hphase.symm
    exact ⟨_, hnext, by rw [hp]; exact byteReceived_stay (hphase ▸ nofun)⟩
  · have hp : phaseAfterHeaderByte u = .done := (if_neg hpos.not_gt).trans (if_pos hlen)
    exact ⟨_, hnext, by rw [hp]; exact byteReceived_afterVerdict u⟩
  · have hp : phaseAfterHeaderByte u = .rxpay := (if_neg hpos.not_gt).trans (if_neg hlen)
    exact ⟨_, hnext, by rw [hp]; exact byteReceived_more u nofun⟩

/-- A payload byte is received: the last one of the frame, or not (R131). -/
theorem receivePayloadByte_next {s : State} (b : Byte) (hphase : s.phase = .rxpay) :
    ∃ t, receivePayloadByte b s = .next t ∧ ByteReceived (phaseAfterPayloadByte (absorb b s)) (absorb b s) t := by
  obtain ⟨hlen, hnext⟩ | ⟨hlen, hnext⟩ := receivePayloadByte_cases b s
  · have hp : phaseAfterPayloadByte (absorb b s) = .done := if_pos hlen
    exact ⟨_, hnext, by rw [hp]; exact byteReceived_afterVerdict _⟩
  · have hp : phaseAfterPayloadByte (absorb b s) = (absorb b s).phase := (if_neg hlen).trans hphase.symm
    exact ⟨_, hnext, by rw [hp]; exact byteReceived_stay (hphase ▸ nofun)⟩

/-- RXB in RXHDR places the byte and goes on as its position says (R131). -/
theorem exec_rxb_header {s : State} (b : Byte) (herr : s.err = none) (hphase : s.phase = .rxhdr)
    (hhdr : s.hpos.toNat < 16) : exec (.rxb b) s = afterHeaderByte (placeHeaderByte b s) :=
  calc exec (.rxb b) s
      = receiveHeaderByte b s := (checked_ready _ (ready_rxb b herr (.inl hphase))).trans (if_pos hphase)
    _ = afterHeaderByte (placeHeaderByte b s) := if_pos hhdr

/-- RXB in RXPAY absorbs the byte and goes on as the length says (R131). -/
theorem exec_rxb_payload {s : State} (b : Byte) (herr : s.err = none) (hphase : s.phase = .rxpay) :
    exec (.rxb b) s = receivePayloadByte b s :=
  (checked_ready _ (ready_rxb b herr (.inr hphase))).trans
    (if_neg fun h => Phase.noConfusion (hphase.symm.trans h))

/-- Every column after a byte was absorbed: the one at `LEN mod 8` takes it, the others stay (R91). -/
theorem absorb_col_getElem (b : Byte) (s : State) (k : Fin 8) :
    (absorb b s).col[k] = if k.val = s.len.toNat % 8 then s.col[k] ^^^ b else s.col[k] := by
  have hk : k = colIndex s.len.toNat ↔ k.val = s.len.toNat % 8 := Fin.ext_iff
  simp only [absorb_col, parStep_col, hk]

/-- Settles O26: in each of the two phases the byte goes to its place, then the phase and the answer follow. -/
theorem rxbReceivesOneByte : Obligations.RxbReceivesOneByte := by
  refine fun s b => ⟨rfl, fun herr hhdr hpay => exec_wrong_phase herr
    ((accepts_rxb_eq_rxe b s.phase).trans (accepts_rxe_eq_false hhdr hpay)), fun herr hphase hpos => ?header,
    fun herr hphase => ?payload⟩
  case header =>
    obtain ⟨t, hnext, hrecv⟩ := afterHeaderByte_next (u := placeHeaderByte b s) hphase
    have hhdr : t.hdr = setHdrByte s.hdr s.hpos.toNat b := hrecv.hdr_eq
    have hhpos : t.hpos = s.hpos + 1 := hrecv.hpos_eq
    have hp : t.phase = phaseAfterHeaderByte (placeHeaderByte b s) := hrecv.phase_eq
    refine ⟨t, (exec_rxb_header b herr hphase hpos).trans hnext, hhpos, fun k hk => ?byte, hrecv.sameEngines,
      hrecv.sameBuffer, hrecv.frame.trans ?others, ?phase, hp ▸ hrecv.more, hp ▸ hrecv.verdict⟩
    case byte => rw [hhdr, hdrByte_setHdrByte s.hdr b hpos hk]
    case others => rw [hhdr, hhpos, hp]; rfl
    case phase => rw [hp, hhpos, hhdr]; rfl
  case payload =>
    obtain ⟨t, hnext, hrecv⟩ := receivePayloadByte_next b hphase
    obtain ⟨hcrc, hrow, hcol, hlen⟩ := hrecv.sameEngines
    have hp : t.phase = phaseAfterPayloadByte (absorb b s) := hrecv.phase_eq
    refine ⟨t, (exec_rxb_payload b herr hphase).trans hnext, hcrc, hrow, fun k => ?column, hlen,
      hrecv.sameBuffer, hrecv.frame.trans ?others, ?phase, hp ▸ hrecv.more, hp ▸ hrecv.verdict⟩
    case column => rw [hcol, absorb_col_getElem]
    case others => rw [hcrc, hrow, hcol, hlen, hp]; rfl
    case phase => rw [hp, hlen]; rfl

end Sys2Proof.Proofs

/-! RD (spec/46_system_ops.md R140): the value of every register, and the words that name none. -/

namespace Sys2Proof.Proofs

open Sys2Proof Sys2Proof.Machine

/-- The high columns as a word, column 4 lowest (R94). -/
theorem colHigh_eq_append (cols : Cols) : colHigh cols = cols[7] ++ cols[6] ++ cols[5] ++ cols[4] :=
  packBytes_eq_append _ _ _ _

/-- RD of a register's number answers its value in every phase, halted or not, and changes nothing (R140). -/
theorem exec_rd_regNumber (g : Reg) (s : State) :
    exec (.rd (regNumber g)) s = .next (answer 0 (regValue s g) s) := by
  have hreg : regOf (regNumber g) = some g := regOf_regNumber g
  have hruns : runsHalted (.rd (regNumber g)) = true := congrArg Option.isSome hreg
  rw [exec, execRd, checked_runsHalted _ hruns rfl, hreg]
  rfl

/-- RD with the register's value written in another form. -/
theorem exec_rd_of_regValue {g : Reg} {s : State} {v : Word} (hv : regValue s g = v) :
    exec (.rd (regNumber g)) s = .next { s with rsp := some ⟨0, v⟩ } :=
  hv ▸ exec_rd_regNumber g s

/-- An RD word with `z` not 0 or a reserved register number is illegal (R68). -/
theorem legalWord_rd_eq_false {w : CmdWord} (hop : w.extractLsb' 12 4 = 0x8)
    (hbad : w.extractLsb' 8 4 ≠ 0 ∨ 0x0D < (w.extractLsb' 0 8).toNat) : legalWord w = false := by
  obtain ⟨hillegal, -⟩ := illegalWordsAreExactlyReserved
  refine (hillegal w).mpr ?_
  obtain hz | hreg := hbad
  · exact .inr (.inl hz)
  · exact .inr (.inr (.inr (.inr ⟨hop, hreg⟩)))

/-- Settles O15: every register through RD's one equation, and the reserved words through that of an illegal word. -/
theorem readRegisterGivesItsValue : Obligations.ReadRegisterGivesItsValue := by
  obtain ⟨-, -, -, hillegal⟩ := illegalWordsAreExactlyReserved
  exact fun s => ⟨fun _ => rfl,
    exec_rd_regNumber .status s, exec_rd_regNumber .len s, exec_rd_regNumber .crc s,
    exec_rd_of_regValue (g := .crcOut) (crcOut_eq_xor s.crc), exec_rd_regNumber .row s,
    exec_rd_of_regValue (g := .colLo) (colLow_eq_append s.col),
    exec_rd_of_regValue (g := .colHi) (colHigh_eq_append s.col),
    exec_rd_regNumber .hdrLen s, exec_rd_regNumber .hdrCrc s, exec_rd_regNumber .hdrRow s,
    exec_rd_regNumber .hdrCol s, exec_rd_of_regValue (g := .hpos) (BitVec.ofNat_toNat 32 s.hpos).symm,
    exec_rd_regNumber .ppos s, exec_rd_regNumber .bufBytes s, rfl,
    fun w hop hbad => hillegal w s (legalWord_rd_eq_false hop hbad)⟩

end Sys2Proof.Proofs

/-! RST (spec/46_system_ops.md R141): the soft reset, and its only word. -/

namespace Sys2Proof.Proofs

open Sys2Proof Sys2Proof.Machine

/-- RST runs in every phase, halted or not (R141). -/
theorem exec_rst (s : State) : exec .rst s = .next (answer 0 0 (softReset s)) := checked_runsHalted _ rfl rfl

/-- A word with RST's opcode and zeros below is RST's word, so every other one is illegal (R68). -/
theorem legalWord_rst_eq_false {w : CmdWord} (hop : w.extractLsb' 12 4 = 0xF) (hne : w ≠ 0xF000) :
    legalWord w = false := by
  obtain ⟨hillegal, -⟩ := illegalWordsAreExactlyReserved
  refine (hillegal w).mpr ?_
  by_cases hz : zField w = 0
  · have himm : immField w ≠ 0 := fun himm => hne ((word_eq_iff w 0xF000).mpr ⟨hop, hz, himm⟩)
    have hlisted : w.extractLsb' 12 4 ∈ [(0x1 : BitVec 4), 0x4, 0x5, 0x7, 0xF] := by rw [hop]; decide
    exact .inr (.inr (.inl ⟨hlisted, himm⟩))
  · exact .inr (.inl hz)

/-- Settles O16: RST's one equation is the reset state with the buffer kept, and its word is the one without a
reserved bit. -/
theorem softResetRestoresResetValues : Obligations.SoftResetRestoresResetValues :=
  ⟨rfl, fun _ => legalWord_rst_eq_false, exec_rst⟩

end Sys2Proof.Proofs

/-! A halted block (spec/60_exceptions.md R155): every word but the two it serves is answered Halted. -/

namespace Sys2Proof.Proofs

open Sys2Proof Sys2Proof.Machine

/-- Every command that a halted block does not execute is answered Halted (R155). -/
theorem exec_halted {i : Instr} {s : State} (herr : s.err ≠ none) (hi : runsHalted i = false) :
    exec i s = .next (answer 4 0 s) := by
  cases i <;> exact checked_halted _ herr hi

/-- Settles O11: a word that decodes is a command that the halted block does not execute, any other is illegal. -/
theorem haltedBlockIgnoresCommands : Obligations.HaltedBlockIgnoresCommands := by
  refine ⟨fun w s herr hserves => ?_, fun c => by cases c <;> decide⟩
  cases hw : decode w with
  | error e => rw [issue_error hw, illegalWord_eq, if_neg herr]; rfl
  | ok i =>
    have hi : runsHalted i = false := Bool.eq_false_iff.mpr fun hi => hserves (servesHalted_of_runsHalted hw hi)
    rw [issue_ok hw, exec_halted herr hi]; rfl

end Sys2Proof.Proofs

/-! What becomes of `ERR` (spec/60_exceptions.md R159): a command's own rule keeps it, clears it, or takes a fault
other than PhaseError, which the common checks alone take. -/

namespace Sys2Proof.Proofs

open Sys2Proof Sys2Proof.Machine

/-- A command's own rule takes IllegalCommand or BufferFull, or it keeps `ERR`, or it is RST's and clears it. -/
theorem ownRule_err {i : Instr} {s t : State} (herr : s.err = none ∨ runsHalted i = true) (h : OwnRule i s t) :
    (s.err = none ∧ ∃ c, c ≠ .phaseError ∧ t = faulted c s) ∨ t.err = s.err ∨ t.err = none := by
  cases i with
  | clr | rxs =>
    obtain rfl := h
    exact .inr (.inl rfl)
  | rst =>
    obtain rfl := h
    exact .inr (.inr rfl)
  | push b =>
    obtain ⟨-, ⟨-, rfl⟩ | ⟨-, rfl⟩⟩ := h
    · exact .inl ⟨herr.resolve_right Bool.false_ne_true, .bufferFull, nofun, rfl⟩
    · exact .inr (.inl rfl)
  | enc j | rxe =>
    obtain ⟨-, ⟨-, rfl⟩ | ⟨-, rfl⟩⟩ := h <;> exact .inr (.inl rfl)
  | pop =>
    obtain ⟨-, last, ⟨-, rfl, -⟩ | ⟨-, rfl, -⟩⟩ := h <;> exact .inr (.inl rfl)
  | rxb b =>
    obtain ⟨-, ⟨-, rfl⟩ | ⟨-, -, rfl⟩ | ⟨-, -, rfl⟩⟩ | ⟨-, ⟨-, rfl⟩ | ⟨-, rfl⟩⟩ := h <;> exact .inr (.inl rfl)
  | rd r =>
    obtain ⟨g, -, rfl⟩ | ⟨-, hnone, rfl⟩ := h
    · exact .inr (.inl rfl)
    · exact .inl ⟨hnone, .illegalCommand, nofun, rfl⟩

/-- A word that puts a new code into `ERR` has taken a fault, with `ERR` at 0 before (R159). -/
theorem faulted_of_issue_err {w : CmdWord} {s t : State} (h : issue w s = .next t) (hnew : t.err ≠ s.err)
    (hcode : t.err ≠ none) : s.err = none ∧ ∃ c, t = faulted c s := by
  cases hw : decode w with
  | error e =>
    rw [issue_error hw, illegalWord_eq] at h
    split at h <;> cases h
    · exact ⟨‹_›, .illegalCommand, rfl⟩
    · exact absurd rfl hnew
  | ok i =>
    rw [issue_ok hw] at h
    obtain ⟨-, -, rfl⟩ | ⟨hnone, -, rfl⟩ | ⟨herr, -, hown⟩ := exec_cases h
    · exact absurd rfl hnew
    · exact ⟨hnone, .phaseError, rfl⟩
    · obtain ⟨hnone, c, -, rfl⟩ | hkept | hcleared := ownRule_err herr hown
      · exact ⟨hnone, c, rfl⟩
      · exact absurd hkept hnew
      · exact absurd hcleared hcode

/-- Settles O10: a new code comes from a fault, whose state shows both numbers in its status word. -/
theorem faultChangesOnlyErr : Obligations.FaultChangesOnlyErr := by
  intro w s t h hnew hcode
  obtain ⟨hnone, c, rfl⟩ := faulted_of_issue_err h hnew hcode
  exact ⟨hnone, c, rfl, by cases c <;> decide, statusWord_err _, statusWord_phase _⟩

end Sys2Proof.Proofs

/-! The phase table (spec/60_exceptions.md R160): where each command's own rule leads. -/

namespace Sys2Proof.Proofs

open Sys2Proof Sys2Proof.Machine

/-- A command whose checks pass has run its own rule. -/
theorem ownRule_of_ready {i : Instr} {s t : State} (hready : ready i s) (h : exec i s = .next t) : OwnRule i s t := by
  obtain ⟨herr, haccepts⟩ := hready
  obtain ⟨hhalted, -⟩ | ⟨-, hrefused, -⟩ | ⟨-, -, hown⟩ := exec_cases h
  · exact absurd herr hhalted
  · exact Bool.noConfusion (haccepts.symm.trans hrefused)
  · exact hown

/-- POP leads to DONE on the frame's last byte and stays in EMIT before it (R123). -/
theorem ownRule_pop_phase {s t : State} (h : OwnRule .pop s t) :
    (t.phase = .done ∧ frameSent t) ∨ (t.phase = .emit ∧ ¬ frameSent t) := by
  obtain ⟨-, last, hcase⟩ := h
  have hlast : t.phase = (if last then .done else .emit) ∧ (last = true ↔ frameSent t) := by
    obtain ⟨-, rfl, hsent⟩ | ⟨-, rfl, hsent⟩ := hcase <;> exact ⟨rfl, hsent⟩
  obtain ⟨hphase, hsent⟩ := hlast
  cases last with
  | false => exact .inr ⟨hphase, fun h => Bool.noConfusion (hsent.mpr h)⟩
  | true => exact .inl ⟨hphase, hsent.mp rfl⟩

/-- A header byte leads where the count and the length it leaves say, and the count stays within the header (R131). -/
theorem ownRule_rxb_header_phase {s t : State} {b : Byte} (hphase : s.phase = .rxhdr) (h : OwnRule (.rxb b) s t) :
    t.phase = phaseAfterHeaderByte t ∧ t.hpos.toNat ≤ 16 := by
  obtain ⟨-, hcase⟩ | ⟨hpay, -⟩ := h
  · have hcount : t.hpos = s.hpos + 1 := by obtain ⟨-, rfl⟩ | ⟨-, -, rfl⟩ | ⟨-, -, rfl⟩ := hcase <;> rfl
    have hlt : s.hpos.toNat < 16 := by omega
    have hsucc : t.hpos.toNat = s.hpos.toNat + 1 := by rw [hcount, hpos_succ hlt]
    refine ⟨?_, by omega⟩
    unfold phaseAfterHeaderByte
    obtain ⟨hpos, ht⟩ | ⟨hpos, hlen, ht⟩ | ⟨hpos, hlen, ht⟩ := hcase
    · rw [if_pos (by omega), ht]; exact hphase
    · rw [if_neg (by omega), ht]; exact (if_pos hlen).symm
    · rw [if_neg (by omega), ht]; exact (if_neg hlen).symm
  · exact Phase.noConfusion (hphase.symm.trans hpay)

/-- A payload byte leads where the length it leaves says (R131). -/
theorem ownRule_rxb_payload_phase {s t : State} {b : Byte} (hphase : s.phase = .rxpay) (h : OwnRule (.rxb b) s t) :
    t.phase = phaseAfterPayloadByte t := by
  obtain ⟨hhdr, -⟩ | ⟨-, ⟨hlen, rfl⟩ | ⟨hlen, rfl⟩⟩ := h
  · exact Phase.noConfusion (hphase.symm.trans hhdr)
  · exact (if_pos hlen).symm
  · exact hphase.trans (if_neg hlen).symm

theorem phaseAfterHeaderByte_eq_rxhdr_iff {t : State} (hcount : t.hpos.toNat ≤ 16) :
    phaseAfterHeaderByte t = .rxhdr ↔ t.hpos ≠ 16 := by
  rw [ne_eq, hpos_eq_16, phaseAfterHeaderByte]
  split
  · exact iff_of_true rfl (by omega)
  · exact iff_of_false (by split <;> nofun) (by omega)

theorem phaseAfterHeaderByte_eq_rxpay_iff {t : State} (hcount : t.hpos.toNat ≤ 16) :
    phaseAfterHeaderByte t = .rxpay ↔ t.hpos = 16 ∧ t.hdr.dataLen ≠ 0 := by
  rw [hpos_eq_16, phaseAfterHeaderByte]
  split
  · exact iff_of_false nofun (by omega)
  · split
    · next hlen => exact iff_of_false nofun fun h => h.2 hlen
    · next hlen => exact iff_of_true rfl ⟨by omega, hlen⟩

theorem phaseAfterPayloadByte_eq_done_iff (t : State) : phaseAfterPayloadByte t = .done ↔ t.len = t.hdr.dataLen := by
  simp [phaseAfterPayloadByte]

/-- A command's own rule leads to a phase that its entry of the table names (R160). -/
theorem ownRule_phase_mem {i : Instr} {s t : State} {ps : List Phase} (h : OwnRule i s t)
    (hentry : phaseTable s.phase i = some ps) : t.phase ∈ ps := by
  cases i with
  | clr | rxs | rst =>
    obtain rfl := h
    cases hphase : s.phase <;> rw [hphase] at hentry <;> cases hentry <;> exact .head _
  | push b =>
    obtain ⟨hphase, ⟨-, rfl⟩ | ⟨-, rfl⟩⟩ := h <;> rw [hphase] at hentry <;> cases hentry <;>
      exact List.mem_singleton.mpr hphase
  | enc j =>
    obtain ⟨hphase, ⟨-, rfl⟩ | ⟨-, rfl⟩⟩ := h <;> rw [hphase] at hentry <;> cases hentry <;> exact .head _
  | pop =>
    have hphase : s.phase = .emit := h.1
    rw [hphase] at hentry
    cases hentry
    obtain ⟨hdone, -⟩ | ⟨hemit, -⟩ := ownRule_pop_phase h
    · rw [hdone]; decide
    · rw [hemit]; decide
  | rxb b =>
    have hphase : s.phase = .rxhdr ∨ s.phase = .rxpay := h.imp And.left And.left
    obtain hphase | hphase := hphase <;> rw [hphase] at hentry <;> cases hentry
    · obtain ⟨hp, -⟩ := ownRule_rxb_header_phase hphase h
      rw [hp, phaseAfterHeaderByte]
      split_ifs <;> decide
    · rw [ownRule_rxb_payload_phase hphase h, phaseAfterPayloadByte]
      split_ifs <;> decide
  | rxe =>
    obtain ⟨hphase | hphase, ⟨-, rfl⟩ | ⟨-, rfl⟩⟩ := h <;> rw [hphase] at hentry <;> cases hentry <;> exact .head _
  | rd r =>
    have hsame : t.phase = s.phase := by obtain ⟨g, -, rfl⟩ | ⟨-, -, rfl⟩ := h <;> rfl
    cases hphase : s.phase <;> rw [hphase] at hentry <;> cases hentry <;>
      exact List.mem_singleton.mpr (hsame.trans hphase)

/-- Settles O9: a blank is refused by the checks; an entry is accepted, so the command's own rule has run and tells
the phase and `ERR`. -/
theorem phaseTableDecidesAndLeads : Obligations.PhaseTableDecidesAndLeads := by
  intro i s t herr h
  have hheader : ∀ b, i = .rxb b → s.phase = .rxhdr → t.phase = phaseAfterHeaderByte t ∧ t.hpos.toNat ≤ 16 := by
    rintro b rfl hphase
    exact ownRule_rxb_header_phase hphase (ownRule_of_ready (ready_rxb b herr (.inl hphase)) h)
  refine ⟨fun hblank => ?blank, fun ps hentry => ?entry, ?pop, ?stays, ?completes, ?payload⟩
  case blank =>
    have hrefused := exec_wrong_phase herr ((accepts_eq_false_iff i s.phase).mpr hblank)
    exact (Host.Outcome.next.inj (hrefused.symm.trans h)).symm
  case entry =>
    have haccepts : accepts i s.phase = true := by
      rw [← Bool.not_eq_false, accepts_eq_false_iff, hentry]; nofun
    have hown := ownRule_of_ready ⟨herr, haccepts⟩ h
    refine ⟨ownRule_phase_mem hown hentry, ?_⟩
    obtain ⟨-, c, hc, rfl⟩ | hkept | hcleared := ownRule_err (.inl herr) hown
    · exact fun hcode => hc (Option.some.inj hcode)
    · rw [hkept, herr]; nofun
    · rw [hcleared]; nofun
  case pop =>
    rintro rfl hphase
    obtain ⟨hdone, hsent⟩ | ⟨hemit, hsent⟩ := ownRule_pop_phase (ownRule_of_ready (ready_pop herr hphase) h)
    · exact iff_of_true hdone hsent
    · exact iff_of_false (by rw [hemit]; nofun) hsent
  case stays =>
    intro b hi hphase
    obtain ⟨hp, hcount⟩ := hheader b hi hphase
    rw [hp, phaseAfterHeaderByte_eq_rxhdr_iff hcount]
  case completes =>
    intro b hi hphase
    obtain ⟨hp, hcount⟩ := hheader b hi hphase
    rw [hp, phaseAfterHeaderByte_eq_rxpay_iff hcount]
  case payload =>
    rintro b rfl hphase
    rw [ownRule_rxb_payload_phase hphase (ownRule_of_ready (ready_rxb b herr (.inr hphase)) h),
      phaseAfterPayloadByte_eq_done_iff]

end Sys2Proof.Proofs

/-! The state directly after a hard reset (spec/70_reset_and_hazards.md R176) and what RD reads there. -/

namespace Sys2Proof.Proofs

open Sys2Proof Sys2Proof.Machine

/-- The reset state of an instance, with the two things that no reset settles: the count that the free power-on bytes
depend on, and the host's further inputs. -/
def resetWith (c : Config) (epoch : Nat) (xs : List Input) : State :=
  { State.reset with cfg := c, bufEpoch := epoch, inputs := xs }

/-- The state after reset, and every state that the hard reset input leads to, is a reset state (R175, R176). -/
theorem eq_resetWith_of_hardReset {t : State}
    (h : t = State.reset ∨ ∃ (s : State) (rest : List Input), s.inputs = .hardReset :: rest ∧ step s = .next t) :
    ∃ c epoch xs, t = resetWith c epoch xs := by
  obtain rfl | ⟨s, rest, hinput, hstep⟩ := h
  · exact ⟨⟨64⟩, 0, [], rfl⟩
  · have ht : hardReset { s with inputs := rest } = t :=
      Host.Outcome.next.inj ((step_hardReset hinput).symm.trans hstep)
    exact ⟨s.cfg, s.bufEpoch + 1, rest, ht.symm.trans (hardReset_eq_reset _)⟩

/-- Every number up to 0x0D is a register's (R70). -/
theorem exists_regNumber_eq {r : BitVec 8} (h : r.toNat ≤ 0x0D) : ∃ g, regNumber g = r := by
  have hround : ∀ n < 14, (regOf (BitVec.ofNat 8 n)).map regNumber = some (BitVec.ofNat 8 n) := by decide
  have hr := hround r.toNat (by omega)
  rw [BitVec.ofNat_toNat, BitVec.setWidth_eq] at hr
  obtain ⟨g, -, hg⟩ := Option.map_eq_some_iff.mp hr
  exact ⟨g, hg⟩

/-- In a reset state every register but CRC and BUF_BYTES has the value 0; for CRC_OUT, because the final complement
undoes CRC's initial value (R176). -/
theorem regValue_resetWith (c : Config) (epoch : Nat) (xs : List Input) {g : Reg} (hcrc : g ≠ .crc)
    (hbytes : g ≠ .bufBytes) : regValue (resetWith c epoch xs) g = 0 := by
  cases g with
  | crc => exact absurd rfl hcrc
  | bufBytes => exact absurd rfl hbytes
  | status => exact (show statusWord State.reset = 0 by decide)
  | crcOut => exact (show crcOut crcInit = 0 by decide)
  | colLo => exact (show colLow colsZero = 0 by decide)
  | colHi => exact (show colHigh colsZero = 0 by decide)
  | len | row | hdrLen | hdrCrc | hdrRow | hdrCol | hpos | ppos => rfl

/-- Settles O7: both kinds of state are reset states, whose fields are the reset values, and RD answers the register's
value there. -/
theorem hardResetGivesResetValues : Obligations.HardResetGivesResetValues := by
  intro t h
  obtain ⟨c, epoch, xs, rfl⟩ := eq_resetWith_of_hardReset h
  refine ⟨rfl, rfl, colsZero_getElem, rfl, rfl, rfl, rfl, rfl, rfl, rfl, rfl, rfl, rfl, rfl, rfl, rfl, rfl, rfl,
    exec_rd_of_regValue (g := .crc) rfl, exec_rd_of_regValue (g := .bufBytes) rfl, fun r hle hne => ?others⟩
  case others =>
    obtain ⟨g, rfl⟩ := exists_regNumber_eq (r := r) (by omega)
    have hcrc : g ≠ .crc := by rintro rfl; exact hne rfl
    have hbytes : g ≠ .bufBytes := by rintro rfl; exact absurd hle (by decide)
    exact exec_rd_of_regValue (regValue_resetWith c epoch xs hcrc hbytes)

end Sys2Proof.Proofs

/-! The decoder and the encoder undo each other (spec/30_encoding.md R60 to R68), and the step (spec/00_scope.md R5). -/

namespace Sys2Proof.Proofs

open Sys2Proof Sys2Proof.Machine

/-- The word of a legal command decodes to it (R64). -/
theorem decode_encode {i : Instr} (hwf : i.WellFormed = true) : decode (encode i) = .ok i :=
  (decode_eq_ok_iff_encode _ i).mpr ⟨rfl, hwf⟩

/-- Settles O1: the decoder's equation at the command's own word. -/
theorem decodeOfEncodeIsTheCommand : Obligations.DecodeOfEncodeIsTheCommand := fun _ => decode_encode

/-- Settles O2: the decoder's equation read from left to right. -/
theorem encodeOfDecodeIsTheWord : Obligations.EncodeOfDecodeIsTheWord := fun w i => (decode_eq_ok_iff_encode w i).mp

/-- Settles O5: each word is the one that its command encodes to. -/
theorem writtenOutWordsDecode : Obligations.WrittenOutWordsDecode :=
  ⟨decode_encode (i := .clr) rfl, decode_encode (i := .push 0x41) rfl, decode_encode (i := .push 0xFF) rfl,
    decode_encode (i := .enc false) rfl, decode_encode (i := .enc true) rfl, decode_encode (i := .pop) rfl,
    decode_encode (i := .rxs) rfl, decode_encode (i := .rxb 0x8B) rfl, decode_encode (i := .rxe) rfl,
    decode_encode (i := .rd 0x03) rfl, decode_encode (i := .rd 0x0D) rfl, decode_encode (i := .rst) rfl⟩

/-- Settles O6: the step's equation for each kind of input, with the answer to an illegal word and the reset state
written out. -/
theorem stepRunsDecodedCommand : Obligations.StepRunsDecodedCommand := by
  refine ⟨fun s w rest i hin hw => ?command, fun s w rest hin hw => ?illegal, fun s rest hin => ?reset,
    fun s hin => step_idle hin⟩
  case command => rw [step_command hin, issue_ok hw]
  case illegal => rw [step_command hin, issue_illegal hw]; rfl
  case reset => rw [step_hardReset hin, hardReset_eq_reset]

/-- Everything a step that answers a next state can have done: waited, taken a hard reset, or issued the next word. -/
theorem step_cases {s t : State} (h : step s = .next t) :
    (s.inputs = [] ∧ t = s) ∨
    (∃ rest, s.inputs = .hardReset :: rest ∧ t = hardReset { s with inputs := rest }) ∨
    (∃ w rest, s.inputs = .command w :: rest ∧ issue w { s with inputs := rest } = .next t) := by
  cases hin : s.inputs with
  | nil =>
    rw [step_idle hin] at h
    exact .inl ⟨rfl, (Host.Outcome.next.inj h).symm⟩
  | cons x rest =>
    cases x with
    | hardReset =>
      rw [step_hardReset hin] at h
      exact .inr (.inl ⟨rest, rfl, (Host.Outcome.next.inj h).symm⟩)
    | command w => exact .inr (.inr ⟨w, rest, rfl, step_command hin ▸ h⟩)

/-- Everything a word that is answered can have done: been answered Halted, taken a fault of the common checks, or run
the own rule of its command. -/
theorem issue_ownRule_cases {w : CmdWord} {s t : State} (h : issue w s = .next t) :
    (s.err ≠ none ∧ t = answer 4 0 s) ∨
    (s.err = none ∧ ∃ c, t = faulted c s) ∨
    (∃ i, encode i = w ∧ (s.err = none ∨ runsHalted i = true) ∧ accepts i s.phase = true ∧ OwnRule i s t) := by
  cases hw : decode w with
  | error e =>
    rw [issue_error hw, illegalWord_eq] at h
    split at h <;> cases h
    · exact .inr (.inl ⟨‹_›, .illegalCommand, rfl⟩)
    · exact .inl ⟨‹_›, rfl⟩
  | ok i =>
    rw [issue_ok hw] at h
    obtain ⟨hhalt, -, ht⟩ | ⟨hnone, -, ht⟩ | ⟨herr, haccepts, hown⟩ := exec_cases h
    · exact .inl ⟨hhalt, ht⟩
    · exact .inr (.inl ⟨hnone, .phaseError, ht⟩)
    · exact .inr (.inr ⟨i, ((decode_eq_ok_iff_encode w i).mp hw).1, herr, haccepts, hown⟩)

/-- Settles O12: a halted block waits, takes a hard reset, answers Halted, serves RD, or runs RST. -/
theorem errKeepsFirstFaultUntilReset : Obligations.ErrKeepsFirstFaultUntilReset := by
  intro s t c hc hstep
  obtain ⟨-, rfl⟩ | ⟨rest, hin, rfl⟩ | ⟨w, rest, hin, hissue⟩ := step_cases hstep
  · exact .inl hc
  · exact .inr ⟨rfl, rfl, rfl, rfl, rfl, rfl, rfl, rfl, rfl, rfl, .inr (hin ▸ rfl)⟩
  · obtain ⟨-, rfl⟩ | ⟨hnone, -⟩ | ⟨i, rfl, herr, -, hown⟩ := issue_ownRule_cases hissue
    · exact .inl hc
    · exact nomatch hc.symm.trans hnone
    · have hruns : runsHalted i = true := herr.resolve_left fun hnone => nomatch hc.symm.trans hnone
      cases i with
      | rd r =>
        obtain ⟨g, -, rfl⟩ | ⟨-, hnone, -⟩ := hown
        · exact .inl hc
        · exact nomatch hc.symm.trans hnone
      | rst =>
        obtain rfl := hown
        exact .inr ⟨rfl, rfl, rfl, rfl, rfl, rfl, rfl, rfl, rfl, rfl, .inl (hin ▸ rfl)⟩
      | _ => cases hruns

/-- Settles O59: `encode`'s one condition. -/
theorem encodeRefusesUncountablePayloads : Obligations.EncodeRefusesUncountablePayloads := by
  intro p j
  by_cases hp : p.length < 2 ^ 32
  · exact iff_of_false (encodePacket_of_lt hp j ▸ nofun) hp.not_ge
  · exact iff_of_true (if_neg hp) (Nat.le_of_not_lt hp)

end Sys2Proof.Proofs

/-! The CRC register as a linear and injective map (spec/40_checksum_engine.md R81 to R87). -/

namespace Sys2Proof.Proofs

open Sys2Proof Sys2Proof.Machine

/-! ### Linearity -/

/-- What a shift step XORs in when it shifts `c` out (R81). -/
def crcFeedback (c : Bool) : Word := if c then crcPoly else 0

theorem crcFeedback_xor (c d : Bool) : crcFeedback (c ^^ d) = crcFeedback c ^^^ crcFeedback d := by
  cases c <;> cases d <;> decide

/-- A shift step as a shift and its feedback (R81). -/
theorem crcBit_eq (r : Word) : crcBit r = (r >>> 1) ^^^ crcFeedback (r.getLsbD 0) := by
  cases h : r.getLsbD 0 with
  | true => exact crcBit_of_bit0_true h
  | false => exact (crcBit_of_bit0_false h).trans BitVec.xor_zero.symm

theorem crcBit_xor (a b : Word) : crcBit (a ^^^ b) = crcBit a ^^^ crcBit b := by
  rw [crcBit_eq, crcBit_eq a, crcBit_eq b, BitVec.ushiftRight_xor_distrib, BitVec.getLsbD_xor, crcFeedback_xor]
  ac_rfl

theorem crcBits_xor (n : Nat) (a b : Word) : crcBits n (a ^^^ b) = crcBits n a ^^^ crcBits n b := by
  induction n generalizing a b with
  | zero => rfl
  | succ n ih => rw [crcBits, crcBit_xor, ih, crcBits, crcBits]

theorem crcByte_xor (r1 r2 : Word) (b1 b2 : Byte) :
    crcByte (r1 ^^^ r2) (b1 ^^^ b2) = crcByte r1 b1 ^^^ crcByte r2 b2 := by
  have hsort : r1 ^^^ r2 ^^^ (zext32 b1 ^^^ zext32 b2) = (r1 ^^^ zext32 b1) ^^^ (r2 ^^^ zext32 b2) := by ac_rfl
  rw [crcByte, zext32_xor, hsort, crcBits_xor, crcByte, crcByte]

/-- Absorbing is linear over XOR (R87 b). -/
theorem crcRun_xor {u v : List Byte} (h : u.length = v.length) (r1 r2 : Word) :
    crcRun (r1 ^^^ r2) (List.zipWith (· ^^^ ·) u v) = crcRun r1 u ^^^ crcRun r2 v := by
  induction u generalizing v r1 r2 with
  | nil => rw [List.eq_nil_of_length_eq_zero h.symm]; rfl
  | cons b u ih =>
    cases v with
    | nil => cases h
    | cons c v => rw [List.zipWith_cons_cons, crcRun_cons, crcByte_xor, ih (Nat.succ.inj h), crcRun_cons, crcRun_cons]

/-- Settles O36: linearity of the run; for the result, the second run starts from the register 0. -/
theorem crcRunIsLinearOverXor : Obligations.CrcRunIsLinearOverXor := by
  intro r1 r2 u v h
  refine ⟨crcRun_xor h r1 r2, ?_⟩
  have hzero : crcInit ^^^ 0 = crcInit := BitVec.xor_zero
  have hrun : crcRun crcInit (List.zipWith (· ^^^ ·) u v) = crcRun crcInit u ^^^ crcRun 0 v := by
    rw [← crcRun_xor h, hzero]
  rw [computeCRC32, computeCRC32, hrun, crcOut_eq_xor, crcOut_eq_xor]
  ac_rfl

/-! ### Absorbing in parts -/

/-- Absorbing a concatenation is absorbing its parts in turn (R87 a). -/
theorem crcRun_append (r : Word) (u v : List Byte) : crcRun r (u ++ v) = crcRun (crcRun r u) v := by
  induction u generalizing r with
  | nil => rfl
  | cons b u ih => exact ih (crcByte r b)

/-- The complement undoes itself, so a result read on the way gives the register back (R84). -/
theorem crcOut_crcOut (r : Word) : crcOut (crcOut r) = r := BitVec.not_not

/-- Settles O35: the run over a concatenation, and the complement undone. -/
theorem crcRunIsIncremental : Obligations.CrcRunIsIncremental := by
  intro r u v
  refine ⟨crcRun_append r u v, ?_⟩
  rw [computeCRC32, computeCRC32, crcOut_crcOut, crcRun_append]

/-! ### A byte bit by bit -/

theorem crcBits_eq_iterate (n : Nat) (r : Word) : crcBits n r = crcBit^[n] r := by
  induction n generalizing r with
  | zero => rfl
  | succ n ih => exact ih (crcBit r)

/-- One step of the bit-serial form: shift, and feed back if bit 0 differs from the data bit `k` (R82). -/
def crcSerialStep (b : Byte) (c : Word) (k : Nat) : Word := (c >>> 1) ^^^ crcFeedback (c.getLsbD 0 ^^ b.getLsbD k)

/-- After `k` steps the register is the bit-serial one with the data bits not yet consumed still XORed in (R82). -/
theorem crcBits_eq_serial (r : Word) (b : Byte) (k : Nat) :
    crcBit^[k] (r ^^^ zext32 b) = (List.range k).foldl (crcSerialStep b) r ^^^ (zext32 b >>> k) := by
  induction k with
  | zero => rfl
  | succ k ih =>
    have hbit : (zext32 b >>> k).getLsbD 0 = b.getLsbD k := by
      rw [BitVec.getLsbD_ushiftRight, zext32, BitVec.getLsbD_setWidth, Nat.add_zero, Bool.and_eq_right_iff_imp]
      exact fun h => decide_eq_true ((BitVec.lt_of_getLsbD h).trans (by decide))
    rw [Function.iterate_succ_apply', ih, crcBit_eq, List.range_succ, List.foldl_append, List.foldl_cons,
      List.foldl_nil, crcSerialStep, BitVec.getLsbD_xor, hbit, BitVec.ushiftRight_xor_distrib, BitVec.shiftRight_add]
    ac_rfl

/-- Settles O33: the eight steps as an iterate, whose data bits are all consumed at the end. -/
theorem crcByteIsBitSerial : Obligations.CrcByteIsBitSerial := by
  have hiterate : ∀ (r : Word) (b : Byte), crcByte r b = crcBit^[8] (r ^^^ zext32 b) := fun r b =>
    crcBits_eq_iterate 8 _
  refine ⟨hiterate, fun r b => ?serial, crcByte_crcInit_0x41⟩
  have hconsumed : zext32 b >>> 8 = 0 := by
    apply BitVec.eq_of_toNat_eq
    rw [BitVec.toNat_ushiftRight, zext32, BitVec.toNat_setWidth_of_le (by decide), Nat.shiftRight_eq_div_pow]
    exact Nat.div_eq_of_lt b.isLt
  calc crcByte r b
      = (List.range 8).foldl (crcSerialStep b) r ^^^ 0 := by rw [hiterate, crcBits_eq_serial, hconsumed]
    _ = (List.range 8).foldl (crcSerialStep b) r := BitVec.xor_zero

/-! ### Injectivity -/

/-- The polynomial's top bit shows which bit a step shifted out, so a step can be undone. -/
theorem crcBit_injective : Function.Injective crcBit := by
  intro a b h
  have htop : ∀ r : Word, (crcBit r).getLsbD 31 = r.getLsbD 0 := fun r => by
    rw [crcBit_eq]
    cases r.getLsbD 0 <;> simp [crcFeedback, crcPoly]
  have hbit : a.getLsbD 0 = b.getLsbD 0 := by rw [← htop a, ← htop b, h]
  rw [crcBit_eq, crcBit_eq, hbit, BitVec.xor_left_inj] at h
  apply BitVec.eq_of_getLsbD_eq
  intro i hi
  cases i with
  | zero => exact hbit
  | succ i => simpa [Nat.add_comm] using congrArg (BitVec.getLsbD · i) h

theorem crcBits_injective (n : Nat) : Function.Injective (crcBits n) := by
  rw [funext (crcBits_eq_iterate n)]
  exact crcBit_injective.iterate n

theorem crcByte_injective (b : Byte) : Function.Injective fun r : Word => crcByte r b := fun _ _ h =>
  (BitVec.xor_left_inj _).mp (crcBits_injective 8 h)

/-- Two bytes absorbed from one register give different registers. -/
theorem crcByte_right_injective (r : Word) : Function.Injective (crcByte r) := fun b c h => by
  have hz : zext32 b = zext32 c := (BitVec.xor_right_inj _).mp (crcBits_injective 8 h)
  have hbyte := congrArg (BitVec.setWidth 8) hz
  rwa [zext32, zext32, BitVec.setWidth_setWidth_of_le _ (by decide), BitVec.setWidth_setWidth_of_le _ (by decide),
    BitVec.setWidth_eq, BitVec.setWidth_eq] at hbyte

theorem crcRun_injective (v : List Byte) : Function.Injective fun r : Word => crcRun r v := by
  induction v with
  | nil => exact fun _ _ h => h
  | cons b v ih => exact ih.comp (crcByte_injective b)

/-- Settles O37: an injection of the finite set of words into itself. -/
theorem crcByteIsBijective : Obligations.CrcByteIsBijective := fun b =>
  Finite.injective_iff_bijective.mp (crcByte_injective b)

/-- Messages that differ in one byte have different CRC-32s: the rest is absorbed by an injective map. -/
theorem computeCRC32_ne_of_byte_ne (u v : List Byte) {b c : Byte} (h : b ≠ c) :
    computeCRC32 (u ++ b :: v) ≠ computeCRC32 (u ++ c :: v) := by
  intro heq
  rw [computeCRC32, computeCRC32, crcRun_append, crcRun_append, crcRun_cons, crcRun_cons] at heq
  exact h (crcByte_right_injective _ (crcRun_injective v (BitVec.not_inj.mp heq)))

/-- Settles O38: the flipped bit makes another byte. -/
theorem singleBitFlipChangesCrc : Obligations.SingleBitFlipChangesCrc := by
  intro u v b k hk
  refine computeCRC32_ne_of_byte_ne u v fun h => ?_
  have hzero : (1 : Byte) <<< k = 0 := (BitVec.xor_right_inj _).mp (h.trans BitVec.xor_zero.symm)
  interval_cases k <;> cases hzero

end Sys2Proof.Proofs

/-! A word is its four bytes, and a header its 16 bytes (spec/43_packet_codec.md R106, R107, spec/45_receive_ops.md
R131). -/

namespace Sys2Proof.Proofs

open Sys2Proof Sys2Proof.Machine

/-- The bytes of a packed word are those packed (R45). -/
theorem byteOf_packBytes (b0 b1 b2 b3 : Byte) :
    byteOf (packBytes b0 b1 b2 b3) 0 = b0 ∧ byteOf (packBytes b0 b1 b2 b3) 1 = b1 ∧
    byteOf (packBytes b0 b1 b2 b3) 2 = b2 ∧ byteOf (packBytes b0 b1 b2 b3) 3 = b3 := by
  rw [packBytes_eq_append]
  refine ⟨?_, ?_, ?_, ?_⟩
  all_goals
    refine BitVec.eq_of_getLsbD_eq fun i hi => ?_
    rw [byteOf, BitVec.getLsbD_extractLsb']
    simp only [BitVec.getLsbD_append]
    grind

/-- Two words with the same four bytes are the same. -/
theorem word_ext {f g : Word} (h : ∀ j < 4, byteOf f j = byteOf g j) : f = g := by
  apply BitVec.eq_of_getLsbD_eq
  intro i hi
  have hbit : ∀ f : Word, (byteOf f (i / 8)).getLsbD (i % 8) = f.getLsbD i := fun f => by
    rw [byteOf, BitVec.getLsbD_extractLsb', Nat.div_add_mod]
    simp [Nat.mod_lt]
  rw [← hbit f, ← hbit g, h (i / 8) (by omega)]

/-- Packing the bytes of a word gives the word back (R107). -/
theorem packBytes_byteOf (f : Word) : packBytes (byteOf f 0) (byteOf f 1) (byteOf f 2) (byteOf f 3) = f := by
  obtain ⟨h0, h1, h2, h3⟩ := byteOf_packBytes (byteOf f 0) (byteOf f 1) (byteOf f 2) (byteOf f 3)
  refine word_ext fun j hj => ?_
  interval_cases j <;> assumption

/-- Two headers with the same 16 bytes are the same. -/
theorem header_ext {g h : Header} (hbytes : ∀ k < 16, hdrByte g k = hdrByte h k) : g = h := by
  have hfield : ∀ m < 4, hdrField g m = hdrField h m := fun m hm => word_ext fun j hj => by
    have hk := hbytes (4 * m + j) (by omega)
    rwa [hdrByte_field g m hj, hdrByte_field h m hj] at hk
  exact Header.ext (hfield 0 (by decide)) (hfield 1 (by decide)) (hfield 2 (by decide)) (hfield 3 (by decide))

theorem hdrBytes_getElem (h : Header) (k : Nat) (hk : k < 16) : (hdrBytes h)[k] = hdrByte h k :=
  Vector.getElem_ofFn hk

/-- Parsing the bytes of a header gives the header back (R107). -/
theorem hdrParse_hdrBytes (h : Header) : hdrParse (hdrBytes h) = h := by
  simp only [hdrParse, hdrBytes_getElem]
  exact Header.ext (packBytes_byteOf _) (packBytes_byteOf _) (packBytes_byteOf _) (packBytes_byteOf _)

/-- The bytes of a parsed header are those parsed (R107). -/
theorem hdrByte_hdrParse (b : Vector Byte 16) (k : Nat) (hk : k < 16) : hdrByte (hdrParse b) k = b[k] := by
  obtain ⟨h0, h1, h2, h3⟩ := byteOf_packBytes b[0] b[1] b[2] b[3]
  obtain ⟨h4, h5, h6, h7⟩ := byteOf_packBytes b[4] b[5] b[6] b[7]
  obtain ⟨h8, h9, h10, h11⟩ := byteOf_packBytes b[8] b[9] b[10] b[11]
  obtain ⟨h12, h13, h14, h15⟩ := byteOf_packBytes b[12] b[13] b[14] b[15]
  interval_cases k <;> assumption

theorem hdrBytes_hdrParse (b : Vector Byte 16) : hdrBytes (hdrParse b) = b :=
  Vector.ext fun k hk => (hdrBytes_getElem _ k hk).trans (hdrByte_hdrParse b k hk)

/-- Received bytes of `b`, placed in any order, are the header's at their offsets; the other bytes stay (R131). -/
theorem hdrByte_foldl_setHdrByte (b : Vector Byte 16) (l : List (Fin 16)) (h : Header) (n : Fin 16) :
    hdrByte (l.foldl (fun (acc : Header) (k : Fin 16) => setHdrByte acc k b[k]) h) n =
      if n ∈ l then b[n] else hdrByte h n := by
  induction l generalizing h with
  | nil => rfl
  | cons k l ih =>
    rw [List.foldl_cons, ih, hdrByte_setHdrByte h b[k] k.isLt n.isLt]
    by_cases hl : n ∈ l
    · simp [hl]
    · by_cases hk : n = k
      · simp [hk]
      · simp [hl, hk, Fin.val_inj]

/-- Settles O46: the two inverses; bytes placed at all 16 offsets are the header's that they parse to. -/
theorem headerParseInvertsBytes : Obligations.HeaderParseInvertsBytes := by
  refine ⟨hdrParse_hdrBytes, hdrBytes_hdrParse, fun b h => header_ext fun k hk => ?_⟩
  rw [hdrByte_hdrParse b k hk]
  have hplaced := hdrByte_foldl_setHdrByte b (List.finRange 16) h ⟨k, hk⟩
  rwa [if_pos (List.mem_finRange _)] at hplaced

end Sys2Proof.Proofs

/-! How the parities follow a change of one byte (spec/41_parity_engine.md R92 to R98, spec/42_fault_injector.md
R102). -/

namespace Sys2Proof.Proofs

open Sys2Proof Sys2Proof.Machine

/-! ### One byte changed -/

/-- The XOR of all bytes, from a byte to start with, takes that byte in at any place. -/
theorem foldl_xor_start (s : List Byte) (a b : Byte) : s.foldl (· ^^^ ·) (a ^^^ b) = s.foldl (· ^^^ ·) a ^^^ b := by
  induction s generalizing a with
  | nil => rfl
  | cons c s ih => rw [List.foldl_cons, BitVec.xor_assoc, BitVec.xor_comm b, ← BitVec.xor_assoc, ih, List.foldl_cons]

/-- Changing one byte changes the XOR of all bytes by the difference. -/
theorem foldl_xor_set (s : List Byte) (a x : Byte) {i : Nat} (hi : i < s.length) :
    (s.set i x).foldl (· ^^^ ·) a = s.foldl (· ^^^ ·) a ^^^ (s[i] ^^^ x) := by
  induction s generalizing a i with
  | nil => cases hi
  | cons b s ih =>
    cases i with
    | zero =>
      have hx : a ^^^ x = (a ^^^ b) ^^^ (b ^^^ x) := by
        rw [BitVec.xor_assoc, ← BitVec.xor_assoc b, BitVec.xor_self, BitVec.zero_xor]
      rw [List.set_cons_zero, List.foldl_cons, hx, foldl_xor_start, List.foldl_cons, List.getElem_cons_zero]
    | succ i => exact ih (a ^^^ b) (Nat.lt_of_succ_lt_succ hi)

/-- The row parity follows every byte (R92). -/
theorem rowParity_set (s : List Byte) (x : Byte) {i : Nat} (hi : i < s.length) :
    rowParity (s.set i x) = rowParity s ^^^ zext32 (s[i] ^^^ x) := by
  rw [rowParity, foldl_xor_set s 0 x hi, zext32_xor, rowParity]

/-- `d` in the column of position `i`, and nothing in the other columns (R91). -/
def inColumn (k : Fin 8) (i : Nat) (d : Byte) : Byte := if i % 8 = k.val then d else 0

/-- Absorbing a byte, column by column (R91). -/
theorem parStep_col_eq (acc : Word × Cols) (i : Nat) (b : Byte) (k : Fin 8) :
    (parStep acc i b).2[k] = acc.2[k] ^^^ inColumn k i b := by
  have hk : k = colIndex i ↔ i % 8 = k.val := Fin.ext_iff.trans eq_comm
  rw [parStep_col, inColumn]
  simp only [hk]
  split
  · rfl
  · exact BitVec.xor_zero.symm

/-- Runs over the same bytes keep the difference of the columns that they start from. -/
theorem parRun_col_start (s : List Byte) (acc acc' : Word × Cols) (i : Nat) (k : Fin 8) {d : Byte}
    (h : acc'.2[k] = acc.2[k] ^^^ d) : (parRun acc' i s).2[k] = (parRun acc i s).2[k] ^^^ d := by
  induction s generalizing acc acc' i with
  | nil => exact h
  | cons b s ih =>
    refine ih _ _ _ ?_
    rw [parStep_col_eq, parStep_col_eq, h]
    ac_rfl

/-- Changing one byte changes its column by the difference (R91). -/
theorem parRun_col_set (s : List Byte) (acc : Word × Cols) (n : Nat) (x : Byte) (k : Fin 8) {i : Nat}
    (hi : i < s.length) :
    (parRun acc n (s.set i x)).2[k] = (parRun acc n s).2[k] ^^^ inColumn k (n + i) (s[i] ^^^ x) := by
  induction s generalizing acc n i with
  | nil => cases hi
  | cons b s ih =>
    cases i with
    | zero =>
      refine parRun_col_start s _ _ _ k ?_
      rw [parStep_col_eq, parStep_col_eq, BitVec.xor_assoc]
      refine congrArg _ ?_
      rw [Nat.add_zero, List.getElem_cons_zero, inColumn, inColumn, inColumn]
      split
      · rw [← BitVec.xor_assoc, BitVec.xor_self, BitVec.zero_xor]
      · decide
    | succ i =>
      rw [List.set_cons_succ, parRun_cons, ih _ _ (Nat.lt_of_succ_lt_succ hi), Nat.add_right_comm n 1 i]
      rfl

theorem parAcc_col_set (s : List Byte) (x : Byte) (k : Fin 8) {i : Nat} (hi : i < s.length) :
    (parAcc (s.set i x)).2[k] = (parAcc s).2[k] ^^^ inColumn k i (s[i] ^^^ x) := by
  rw [parAcc, parRun_col_set s _ 0 x k hi, Nat.zero_add, parAcc]

/-! ### The packed columns -/

/-- The column parity is the columns 0 to 3 and nothing else (R93, R95). -/
theorem colLow_eq_iff (xs ys : Cols) : colLow xs = colLow ys ↔ ∀ k : Fin 8, k.val < 4 → xs[k] = ys[k] := by
  obtain ⟨x0, x1, x2, x3⟩ := byteOf_packBytes xs[0] xs[1] xs[2] xs[3]
  obtain ⟨y0, y1, y2, y3⟩ := byteOf_packBytes ys[0] ys[1] ys[2] ys[3]
  constructor
  · intro h
    have hbyte : ∀ j, byteOf (colLow xs) j = byteOf (colLow ys) j := fun j => congrArg (byteOf · j) h
    rintro ⟨k, hk8⟩ hk
    interval_cases k
    exacts [x0.symm.trans ((hbyte 0).trans y0), x1.symm.trans ((hbyte 1).trans y1),
      x2.symm.trans ((hbyte 2).trans y2), x3.symm.trans ((hbyte 3).trans y3)]
  · intro h
    have h0 : xs[0] = ys[0] := h 0 (by decide)
    have h1 : xs[1] = ys[1] := h 1 (by decide)
    have h2 : xs[2] = ys[2] := h 2 (by decide)
    have h3 : xs[3] = ys[3] := h 3 (by decide)
    rw [colLow, colLow, h0, h1, h2, h3]

theorem compute2DParity_col_eq_iff (s t : List Byte) :
    (compute2DParity s).2 = (compute2DParity t).2 ↔ ∀ k : Fin 8, k.val < 4 → (parAcc s).2[k] = (parAcc t).2[k] :=
  colLow_eq_iff _ _

/-! ### Late columns -/

/-- A column depends on the bytes of its class alone (R91). -/
theorem parRun_col_congr {s t : List Byte} {acc acc' : Word × Cols} {n : Nat} {k : Fin 8} (hlen : s.length = t.length)
    (hacc : acc.2[k] = acc'.2[k]) (hbytes : ∀ i, (n + i) % 8 = k.val → s[i]? = t[i]?) :
    (parRun acc n s).2[k] = (parRun acc' n t).2[k] := by
  induction s generalizing t acc acc' n with
  | nil => rw [List.eq_nil_of_length_eq_zero hlen.symm]; exact hacc
  | cons b s ih =>
    cases t with
    | nil => cases hlen
    | cons c t =>
      refine ih (Nat.succ.inj hlen) ?_ fun i hi => hbytes (i + 1) (by rwa [Nat.add_comm i, ← Nat.add_assoc])
      rw [parStep_col_eq, parStep_col_eq, hacc, inColumn, inColumn]
      split
      · next hn => rw [Option.some.inj (hbytes 0 hn)]
      · rfl

/-- Settles O42: the columns 0 to 3 depend on the bytes at which the sequences agree. -/
theorem lateColumnsAreInvisible : Obligations.LateColumnsAreInvisible := fun s t hlen hbytes =>
  (compute2DParity_col_eq_iff s t).mpr fun _ hk =>
    parRun_col_congr hlen rfl fun i hi => hbytes i (by rw [← Nat.zero_add i, hi]; exact hk)

/-! ### Two bytes swapped -/

/-- The XOR of the columns follows one column. -/
theorem foldl_xor_cols_set (cols : Cols) (k : Fin 8) (b : Byte) :
    (cols.set k (cols[k] ^^^ b)).toList.foldl (· ^^^ ·) 0 = cols.toList.foldl (· ^^^ ·) 0 ^^^ b := by
  have hk : k.val < cols.toList.length := by rw [Vector.length_toList]; exact k.isLt
  have hdiff : cols.toList[k.val] ^^^ (cols[k] ^^^ b) = b := by
    rw [Vector.getElem_toList, Fin.getElem_fin, ← BitVec.xor_assoc, BitVec.xor_self, BitVec.zero_xor]
  rw [Vector.toList_set, foldl_xor_set _ _ _ hk, hdiff]

/-- The row stays the XOR of the eight columns, whatever is absorbed (R98 b). -/
theorem parRun_row_eq_cols (s : List Byte) (acc : Word × Cols) (n : Nat)
    (h : acc.1 = zext32 (acc.2.toList.foldl (· ^^^ ·) 0)) :
    (parRun acc n s).1 = zext32 ((parRun acc n s).2.toList.foldl (· ^^^ ·) 0) := by
  induction s generalizing acc n with
  | nil => exact h
  | cons b s ih =>
    refine ih _ _ ?_
    rw [parStep_row, h, ← zext32_xor, ← foldl_xor_cols_set acc.2 (colIndex n) b]
    rfl

/-- The sequence with the bytes at `i` and `j` swapped. -/
def swapBytes (s : List Byte) (i j : Fin s.length) : List Byte := (s.set i (s.get j)).set j (s.get i)

/-- A swap changes the columns of both positions by the difference of the bytes, and no other. -/
theorem parAcc_col_swapBytes (s : List Byte) (i j : Fin s.length) (k : Fin 8) :
    (parAcc (swapBytes s i j)).2[k] =
      (parAcc s).2[k] ^^^ (inColumn k i (s.get i ^^^ s.get j) ^^^ inColumn k j (s.get i ^^^ s.get j)) := by
  have hlen : j.val < (s.set i (s.get j)).length := by rw [List.length_set]; exact j.isLt
  have hj : (s.set i (s.get j))[j.val] = s.get j := by
    rw [List.getElem_set]
    split <;> rfl
  rw [swapBytes, parAcc_col_set _ _ k hlen, hj, parAcc_col_set _ _ k i.isLt, BitVec.xor_comm (s.get j) (s.get i),
    BitVec.xor_assoc]
  rfl

/-- A swap changes column `k` exactly when the bytes differ and one position alone is of class `k`. -/
theorem parAcc_col_swapBytes_eq_iff (s : List Byte) (i j : Fin s.length) (k : Fin 8) :
    (parAcc (swapBytes s i j)).2[k] = (parAcc s).2[k] ↔
      s.get i = s.get j ∨ (i.val % 8 = k.val ↔ j.val % 8 = k.val) := by
  have hkeep : ∀ x y : Byte, x ^^^ y = x ↔ y = 0 := fun x y =>
    (iff_of_eq (congrArg (x ^^^ y = ·) BitVec.xor_zero.symm)).trans (BitVec.xor_right_inj x)
  rw [parAcc_col_swapBytes, hkeep, inColumn, inColumn]
  by_cases hi : i.val % 8 = k.val
  · by_cases hj : j.val % 8 = k.val
    · simp [hi, hj]
    · simp [hi, hj]
  · by_cases hj : j.val % 8 = k.val
    · simp [hi, hj]
    · simp [hi, hj]

/-- Settles O41: the row is the XOR of the columns from the start; a swap shows in a transmitted column exactly when the
bytes differ and a position of that class is not matched by the other. -/
theorem swappingBytesAndColumnParity : Obligations.SwappingBytesAndColumnParity := by
  refine ⟨fun s => parRun_row_eq_cols s (0, colsZero) 0 (by decide),
    fun s i j => ⟨fun hclass => ?same, fun hclass => ?other⟩⟩
  case same =>
    refine (compute2DParity_col_eq_iff (swapBytes s i j) s).mpr fun k _ => ?_
    exact (parAcc_col_swapBytes_eq_iff s i j k).mpr (.inr (by rw [hclass]))
  case other =>
    refine (not_congr (compute2DParity_col_eq_iff (swapBytes s i j) s)).trans ?_
    simp only [parAcc_col_swapBytes_eq_iff]
    constructor
    · intro h
      obtain ⟨k, hk⟩ := not_forall.mp h
      obtain ⟨hlow, hk⟩ := Classical.not_imp.mp hk
      obtain ⟨hne, hk⟩ := not_or.mp hk
      exact ⟨hne, by omega⟩
    · rintro ⟨hne, hlow⟩ h
      have hclasses : ∀ m < 4, (i.val % 8 = m ↔ j.val % 8 = m) := fun m hm =>
        (h ⟨m, by omega⟩ hm).resolve_left hne
      obtain hi | hj := hlow
      · exact hclass ((hclasses _ hi).mp rfl).symm
      · exact hclass ((hclasses _ hj).mpr rfl)

/-! ### The injected byte -/

/-- Changing the lowest byte of a concatenation changes the word by as much. -/
theorem append_low_xor (x : BitVec 24) (b d : Byte) : x ++ (b ^^^ d) = (x ++ b) ^^^ zext32 d := by
  apply BitVec.eq_of_getLsbD_eq
  intro i hi
  rw [BitVec.getLsbD_xor, BitVec.getLsbD_append, BitVec.getLsbD_append, zext32, BitVec.getLsbD_setWidth]
  split
  · simp [hi]
  · next hge => simp [BitVec.getLsbD_of_ge d i (Nat.le_of_not_lt hge)]

/-- An injection sets byte 0 (R100). -/
theorem inject_eq_set {p : List Byte} (hp : 0 < p.length) : inject p = p.set 0 (p[0] ^^^ 0x01) := by
  cases p with
  | nil => cases hp
  | cons b p => rfl

/-- An injection changes byte 0 by `INJECT_MASK` (R100). -/
theorem injected_diff (b : Byte) : b ^^^ (b ^^^ 0x01) = 0x01 := by
  rw [← BitVec.xor_assoc, BitVec.xor_self, BitVec.zero_xor]

/-- The row parity of an injected payload (R102). -/
theorem compute2DParity_row_inject {p : List Byte} (hp : 0 < p.length) :
    (compute2DParity (inject p)).1 = (compute2DParity p).1 ^^^ 0x00000001 := by
  rw [compute2DParity_row, inject_eq_set hp, rowParity_set _ _ hp, injected_diff, compute2DParity_row]
  rfl

/-- The column parity of an injected payload: byte 0 is of column 0, the lowest (R102). -/
theorem compute2DParity_col_inject {p : List Byte} (hp : 0 < p.length) :
    (compute2DParity (inject p)).2 = (compute2DParity p).2 ^^^ 0x00000001 := by
  have hcol : ∀ k : Fin 8, (parAcc (inject p)).2[k] = (parAcc p).2[k] ^^^ inColumn k 0 0x01 := fun k => by
    rw [inject_eq_set hp, parAcc_col_set _ _ k hp, injected_diff]
  have hlate : ∀ k : Fin 8, k ≠ 0 → (parAcc (inject p)).2[k] = (parAcc p).2[k] := fun k hk => by
    have hnot : ¬ 0 % 8 = k.val := fun h => hk (Fin.ext h.symm)
    rw [hcol, inColumn, if_neg hnot]
    exact BitVec.xor_zero
  have h0 : (parAcc (inject p)).2[0] = (parAcc p).2[0] ^^^ 0x01 := hcol 0
  have h1 : (parAcc (inject p)).2[1] = (parAcc p).2[1] := hlate 1 (by decide)
  have h2 : (parAcc (inject p)).2[2] = (parAcc p).2[2] := hlate 2 (by decide)
  have h3 : (parAcc (inject p)).2[3] = (parAcc p).2[3] := hlate 3 (by decide)
  rw [compute2DParity_col, compute2DParity_col, h0, h1, h2, h3]
  exact append_low_xor _ _ _

/-- The CRC-32 of an injected payload is another one (R102). -/
theorem computeCRC32_inject_ne {p : List Byte} (hp : p ≠ []) : computeCRC32 (inject p) ≠ computeCRC32 p := by
  cases p with
  | nil => exact absurd rfl hp
  | cons b p =>
    refine computeCRC32_ne_of_byte_ne [] p fun h => ?_
    exact absurd ((BitVec.xor_right_inj b).mp (h.trans BitVec.xor_zero.symm)) (by decide)

theorem inject_inject (p : List Byte) : inject (inject p) = p := by
  cases p with
  | nil => rfl
  | cons b p => exact congrArg (· :: p) (injectByte_injectByte b)

/-- Settles O44: the three changes of an injection, and the second one that undoes it. -/
theorem injectionChangesAllThree : Obligations.InjectionChangesAllThree := fun p hp =>
  ⟨compute2DParity_row_inject (List.length_pos_iff.mpr hp), compute2DParity_col_inject (List.length_pos_iff.mpr hp),
    computeCRC32_inject_ne hp, inject_inject p⟩

end Sys2Proof.Proofs

/-! What a receiver concludes from the bytes so far (spec/43_packet_codec.md R112 to R114). -/

namespace Sys2Proof.Proofs

open Sys2Proof Sys2Proof.Machine

/-! ### The three comparisons -/

/-- Something is injected: it was asked for, and there is a byte 0 (R101, R110). -/
def injects (p : List Byte) (j : Bool) : Bool := j && decide (0 < p.length)

theorem transmitted_of_injects {p : List Byte} {j : Bool} (h : injects p j = true) :
    transmitted p j = inject p ∧ p ≠ [] := by
  obtain ⟨rfl, hp⟩ := (Bool.and_eq_true _ _).mp h
  exact ⟨rfl, List.length_pos_iff.mp (of_decide_eq_true hp)⟩

theorem transmitted_of_not_injects {p : List Byte} {j : Bool} (h : injects p j = false) : transmitted p j = p := by
  refine transmitted_of_not_inject fun ⟨hj, hp⟩ => Bool.false_ne_true (h.symm.trans ?_)
  rw [injects, hj, Bool.true_and, decide_eq_true_eq]
  exact List.length_pos_iff.mpr hp

/-- Verifying what `encode` transmits finds an injection in all three comparisons, and nothing else (R113). -/
theorem verify_transmitted (p : List Byte) (j : Bool) :
    verify (headerOf p) (transmitted p j) = ⟨injects p j, injects p j, injects p j⟩ := by
  cases h : injects p j with
  | false => simp [verify, headerOf, transmitted_of_not_injects h]
  | true =>
    obtain ⟨hq, hp⟩ := transmitted_of_injects h
    have hpos := List.length_pos_iff.mpr hp
    simp [verify, headerOf, hq, computeCRC32_inject_ne hp, compute2DParity_row_inject hpos,
      compute2DParity_col_inject hpos]

/-! ### The verdict on the bytes so far -/

/-- Before a header is complete there is no verdict, unless the stream closes (R114). -/
theorem classify_short {w : List Byte} (h : w.length < 16) (closed : Bool) :
    classify w closed = if closed then (if w.length = 0 then .streamClosed else .malformedFrame) else .more :=
  dif_neg h.not_ge

/-- The first 16 bytes of `w` are the wire bytes of `hd`. -/
def StartsWith (hd : Header) (w : List Byte) : Prop := 16 ≤ w.length ∧ ∀ k < 16, w[k]? = some (hdrByte hd k)

theorem hdrParse_headerPart {hd : Header} {w : List Byte} (h : StartsWith hd w) :
    hdrParse (headerPart w h.1) = hd := by
  obtain ⟨hlen, hbytes⟩ := h
  refine header_ext fun k hk => ?_
  have hw : w[k] = hdrByte hd k := List.getElem_eq_iff _ |>.mpr (hbytes k hk)
  rw [hdrByte_hdrParse _ k hk, headerPart, Vector.getElem_ofFn]
  exact hw

/-- After the header, its length says how many payload bytes the verdict waits for (R114). -/
theorem classify_of_startsWith {hd : Header} {w : List Byte} (h : StartsWith hd w) (closed : Bool) :
    classify w closed =
      if w.length < 16 + hd.dataLen.toNat then (if closed then .malformedFrame else .more)
      else verdictOf (verify hd ((w.drop 16).take hd.dataLen.toNat)) := by
  rw [classify, dif_pos h.1, hdrParse_headerPart h]

theorem startsWith_frame (hd : Header) (q : List Byte) : StartsWith hd (frame hd q) :=
  ⟨by rw [frame_length]; omega, fun _ hk => frame_getElem?_header hd q hk⟩

theorem drop_frame (hd : Header) (q : List Byte) : (frame hd q).drop 16 = q :=
  List.drop_left' Vector.length_toList

/-- A complete frame gets the verdict on its payload (R114). -/
theorem classify_frame {hd : Header} {q : List Byte} (hlen : q.length = hd.dataLen.toNat) :
    classify (frame hd q) false = verdictOf (verify hd q) := by
  rw [classify_of_startsWith (startsWith_frame hd q), frame_length, hlen, if_neg (lt_irrefl _), drop_frame, ← hlen,
    List.take_length]

/-- Everything `encode` answers is the header of a payload that it can count, and the transmitted payload (R110). -/
theorem encodePacket_eq_some {p : List Byte} {j : Bool} {h : Header} {q : List Byte}
    (henc : encodePacket p j = some (h, q)) : p.length < 2 ^ 32 ∧ h = headerOf p ∧ q = transmitted p j := by
  unfold encodePacket at henc
  split at henc
  · next hp => cases henc; exact ⟨hp, rfl, rfl⟩
  · cases henc

/-- The verdict from the three comparisons of an `encode`d frame. -/
theorem verdictOf_all (c : Bool) : verdictOf ⟨c, c, c⟩ = if c then .integrityMismatch else .frameOK := by
  cases c <;> rfl

/-- Settles O48: the three comparisons, and the verdict that they give the complete frame. -/
theorem detectionContract : Obligations.DetectionContract := by
  intro p j h q henc
  obtain ⟨hp, rfl, rfl⟩ := encodePacket_eq_some henc
  refine ⟨verify_transmitted p j, ?_⟩
  rw [classify_frame (by rw [transmitted_length, headerOf_dataLen_toNat hp]), verify_transmitted, verdictOf_all]
  rfl

end Sys2Proof.Proofs

/-! The words of the pseudo-instructions, and two hex digits as the byte they write (spec/30_encoding.md R72 to R76,
spec/00_scope.md R6). -/

namespace Sys2Proof.Proofs

open Sys2Proof Sys2Proof.Machine

theorem wordsOf_append (is js : List Instr) : wordsOf (is ++ js) = wordsOf is ++ wordsOf js := List.map_append

theorem wordsOf_pushAll (p : List Byte) : wordsOf (pushAll p) = p.map fun b => (0x2000 : CmdWord) ||| b.setWidth 16 :=
  List.map_map

theorem wordsOf_receiveAll (p : List Byte) :
    wordsOf (receiveAll p) = p.map fun b => (0x6000 : CmdWord) ||| b.setWidth 16 :=
  List.map_map

theorem wordsOf_popAll (n : Nat) : wordsOf (popAll n) = List.replicate n 0x4000 := List.map_replicate

theorem encode_enc (j : Bool) : encode (.enc j) = if j then 0x3001 else 0x3000 := by
  cases j <;> rfl

theorem wordsOf_encodeCommands (p : List Byte) (j : Bool) :
    wordsOf (encodeCommands p j) =
      [0x1000] ++ p.map (fun b => (0x2000 : CmdWord) ||| b.setWidth 16) ++ [if j then 0x3001 else 0x3000] ++
        List.replicate (16 + p.length) 0x4000 := by
  rw [← wordsOf_pushAll, ← wordsOf_popAll, ← encode_enc, List.append_assoc, List.append_assoc]
  exact congrArg (0x1000 :: ·) (wordsOf_append _ _)

/-- CRC32 and PARITY: the payload, then their register reads. -/
theorem wordsOf_push_then (p : List Byte) (is : List Instr) :
    wordsOf (.clr :: (pushAll p ++ is)) =
      [0x1000] ++ p.map (fun b => (0x2000 : CmdWord) ||| b.setWidth 16) ++ wordsOf is := by
  rw [← wordsOf_pushAll, List.append_assoc]
  exact congrArg (0x1000 :: ·) (wordsOf_append _ _)

/-- A hex digit as it is written (R72) is read back as its value. -/
theorem digitValue_hexDigit (n : BitVec 4) : digitValue (hexDigit n) = some n.toNat := by
  revert n
  decide

theorem hexPair_hexDigits (b : Byte) :
    hexPair [hexDigit (b.extractLsb' 4 4), hexDigit (b.extractLsb' 0 4)] = some b := by
  have hvalue : 16 * (b.extractLsb' 4 4).toNat + (b.extractLsb' 0 4).toNat = b.toNat := by
    have hlt := b.isLt
    simp only [BitVec.extractLsb'_toNat, Nat.shiftRight_eq_div_pow]
    omega
  simp only [hexPair, digitValue_hexDigit, hvalue, BitVec.ofNat_toNat, BitVec.setWidth_eq]

/-- The source lines of the obligation, read by the assembler. -/
theorem assembleLine_examples :
    assembleLine "PUSHS \"Hi!\"".toList = some (wordsOf (pushAll [0x48, 0x69, 0x21])) ∧
    assembleLine "PUSHB 0x48 'i'".toList = some (wordsOf (pushAll [0x48, 0x69])) ∧
    assembleLine "RXBS 31 0A C6".toList = some (wordsOf (receiveAll [0x31, 0x0A, 0xC6])) ∧
    assembleLine "POPN 17".toList = some (wordsOf (popAll 17)) ∧
    assembleLine "ENCODE \"Hi!\", 0 ; a comment".toList = some (wordsOf (encodeCommands [0x48, 0x69, 0x21] false)) ∧
    assembleLine "CRC32 \"Hi!\"".toList = some (wordsOf (crc32Commands [0x48, 0x69, 0x21])) ∧
    assembleLine "PARITY \"Hi!\"".toList = some (wordsOf (parityCommands [0x48, 0x69, 0x21])) ∧
    assembleLine "RXFRAME 0A 00".toList = some (wordsOf (receiveCommands [0x0A, 0x00])) ∧
    assembleLine "PUSH 'A'".toList = some [0x2041] ∧ assembleLine "RXB 65".toList = some [0x6041] ∧
    assembleLine "RD CRC_OUT".toList = some [0x8003] := by
  refine ⟨?_, ?_, ?_, ?_, ?_, ?_, ?_, ?_, ?_, ?_, ?_⟩ <;> decide

/-- Settles O57: the words of each sequence part by part, the digits of a listed byte, and the source lines. -/
theorem pseudoInstructionsExpand : Obligations.PseudoInstructionsExpand :=
  ⟨wordsOf_pushAll, wordsOf_receiveAll, wordsOf_popAll, wordsOf_encodeCommands, fun p => wordsOf_push_then p _,
    fun p => wordsOf_push_then p _, fun w => congrArg (0x5000 :: ·) (wordsOf_receiveAll w),
    fun b => listedByte_of_hexPair (hexPair_hexDigits b), assembleLine_examples⟩

end Sys2Proof.Proofs

/-! The frame offset `HPOS + PPOS` (spec/20_memory.md R49): its range during an emission, and the one step of POP. -/

namespace Sys2Proof.Proofs

open Sys2Proof Sys2Proof.Machine

/-- The counters of an emission: header first, then payload, both within the frame (R26 b, e). -/
structure EmitCounts (s : State) : Prop where
  header : s.hpos.toNat ≤ 16
  payload : s.ppos.toNat ≤ s.hdr.dataLen.toNat
  order : 0 < s.ppos.toNat → s.hpos.toNat = 16

/-- The offset in the frame of the next byte to emit (R49). -/
def frameOffset (s : State) : Nat := s.hpos.toNat + s.ppos.toNat

theorem frameSent_iff_toNat {s : State} :
    frameSent s ↔ s.hpos.toNat = 16 ∧ s.ppos.toNat = s.hdr.dataLen.toNat := by
  rw [frameSent, hpos_eq_16, BitVec.toNat_inj]

/-- The frame is sent when the offset has reached its length (R49, R109). -/
theorem frameSent_iff_offset {s : State} (hc : EmitCounts s) :
    frameSent s ↔ frameOffset s = 16 + s.hdr.dataLen.toNat := by
  obtain ⟨hheader, hpayload, horder⟩ := hc
  rw [frameSent_iff_toNat, frameOffset]
  omega

/-- While the frame is not sent, a byte of it is left. -/
theorem emit_left {s : State} (hc : EmitCounts s) (hleft : ¬ frameSent s) :
    s.hpos.toNat < 16 ∨ (s.hpos.toNat = 16 ∧ s.ppos.toNat < s.hdr.dataLen.toNat) := by
  obtain ⟨hheader, hpayload, -⟩ := hc
  rw [frameSent_iff_toNat] at hleft
  omega

/-- The counters and the header that POP leaves: one byte further, and nothing wraps (R123). -/
theorem ownRule_pop_counts {s t : State} (hc : EmitCounts s) (hleft : ¬ frameSent s) (h : OwnRule .pop s t) :
    t.hdr = s.hdr ∧ frameOffset t = frameOffset s + 1 ∧ EmitCounts t := by
  have hnext := emit_left hc hleft
  obtain ⟨hheader, hpayload, horder⟩ := hc
  obtain ⟨-, last, ⟨hhdr, rfl, -⟩ | ⟨hpay, rfl, -⟩⟩ := h
  · have hpos : (s.hpos + 1).toNat = s.hpos.toNat + 1 := hpos_succ hhdr
    refine ⟨rfl, ?_, ?_, hpayload, fun hlate => absurd (horder hlate) hhdr.ne⟩
    · change (s.hpos + 1).toNat + s.ppos.toNat = s.hpos.toNat + s.ppos.toNat + 1
      omega
    · exact hpos.trans_le hhdr
  · obtain ⟨h16, hlt⟩ := hnext.resolve_left hpay.not_gt
    have hpos : (s.ppos + 1).toNat = s.ppos.toNat + 1 := toNat_add_one_of_lt hlt
    exact ⟨rfl, congrArg (s.hpos.toNat + ·) hpos, hheader, hpos.trans_le hlt, fun _ => h16⟩

/-- POP's own rule moves the counters and the phase and answers (R123). -/
theorem ownRule_pop_same {s t : State} (h : OwnRule .pop s t) :
    t = { s with hpos := t.hpos, ppos := t.ppos, phase := t.phase, rsp := t.rsp } := by
  obtain ⟨-, last, ⟨-, rfl, -⟩ | ⟨-, rfl, -⟩⟩ := h <;> rfl

/-- POP's own rule answers the byte at the frame offset, marked as the last when the frame is sent (R123). -/
theorem ownRule_pop_answer {s t : State} (hc : EmitCounts s) (hleft : ¬ frameSent s) (h : OwnRule .pop s t) :
    ∃ b, (frame s.hdr (bufPrefix s s.hdr.dataLen.toNat))[frameOffset s]? = some b ∧
      t.rsp = some ⟨0, popData b (frameOffset t == 16 + t.hdr.dataLen.toNat) (decide (frameOffset s < 16))⟩ := by
  obtain ⟨-, -, hct⟩ := ownRule_pop_counts hc hleft h
  have hmark : ∀ last : Bool, (last = true ↔ frameSent t) → (frameOffset t == 16 + t.hdr.dataLen.toNat) = last :=
    fun last hlast => by rw [Bool.eq_iff_iff, beq_iff_eq, hlast, frameSent_iff_offset hct]
  obtain ⟨-, last, ⟨hhdr, ht, hlast⟩ | ⟨hpay, ht, hlast⟩⟩ := h
  · have hoffset : frameOffset s = s.hpos.toNat :=
      Nat.add_eq_left.mpr (Nat.eq_zero_of_not_pos fun hlate => hhdr.ne (hc.order hlate))
    refine ⟨_, hoffset ▸ frame_getElem?_header _ _ hhdr, ?_⟩
    rw [hmark last (by rw [ht]; exact hlast), hoffset, decide_eq_true hhdr, ht]
    rfl
  · obtain ⟨h16, hlt⟩ := (emit_left hc hleft).resolve_left hpay.not_gt
    have hoffset : frameOffset s = 16 + s.ppos.toNat := congrArg (· + s.ppos.toNat) h16
    refine ⟨readBuf s s.ppos.toNat, ?_, ?_⟩
    · rw [hoffset, frame_getElem?_payload, bufPrefix_getElem? s hlt]
    · rw [hmark last (by rw [ht]; exact hlast), hoffset, decide_eq_false (by omega), ht]
      rfl

/-- The counters of an emission that begins. -/
theorem emitCounts_of_zero {s : State} (hhpos : s.hpos = 0) (hppos : s.ppos = 0) : EmitCounts s ∧ ¬ frameSent s := by
  refine ⟨⟨hhpos ▸ Nat.zero_le _, hppos ▸ Nat.zero_le _, fun hlate => absurd (hppos ▸ hlate) (lt_irrefl 0)⟩, ?_⟩
  exact fun hsent => absurd (hhpos.symm.trans hsent.1) (by decide)

/-- The invariant gives the counters of an emission. -/
theorem emitCounts_of_blockInv {s : State} (h : BlockInv s) (hphase : s.phase = .emit) :
    EmitCounts s ∧ ¬ frameSent s := by
  obtain ⟨-, hpayload, horder⟩ := h.emitted (.inl hphase)
  obtain ⟨hleft, -⟩ := h.emitting hphase
  refine ⟨⟨h.headerCount, hpayload, fun hlate => hpos_eq_16.mp (horder hlate)⟩, ?_⟩
  rw [frameSent_iff_toNat]
  omega

/-- Settles O55: the counters that POP leaves, and DONE exactly when the frame is sent. -/
theorem popNeverRepeatsAnOffset : Obligations.PopNeverRepeatsAnOffset := by
  intro s t hinv hready hexec
  have hown := ownRule_of_ready hready hexec
  obtain ⟨hc, hleft⟩ := emitCounts_of_blockInv hinv hown.1
  obtain ⟨-, hoffset, hct⟩ := ownRule_pop_counts hc hleft hown
  refine ⟨hoffset, Nat.add_le_add hct.header hct.payload, Iff.trans ?_ (frameSent_iff_offset hct)⟩
  obtain ⟨hdone, hsent⟩ | ⟨hemit, hmore⟩ := ownRule_pop_phase hown
  · exact iff_of_true hdone hsent
  · exact iff_of_false (hemit ▸ nofun) hmore

end Sys2Proof.Proofs

/-! The counters that keep every command from stopping (spec/20_memory.md R40, spec/45_receive_ops.md R131): bounded
counters stay bounded, and then every command answers a next state. -/

namespace Sys2Proof.Proofs

open Sys2Proof Sys2Proof.Machine

/-- The counters are in the ranges in which no command stops: the part of R26 (d) to (f) that does not speak of the
buffer's contents. -/
structure Bounded (s : State) : Prop where
  absorbing : s.phase = .absorb → s.len.toNat ≤ s.cfg.bufBytes.toNat
  emitting : s.phase = .emit → s.hdr.dataLen.toNat ≤ s.cfg.bufBytes.toNat ∧ EmitCounts s ∧ ¬ frameSent s
  receiving : s.phase = .rxhdr → s.hpos.toNat < 16

/-- The invariant of the block bounds its counters. -/
theorem bounded_of_blockInv {s : State} (h : BlockInv s) : Bounded s where
  absorbing hphase := (h.absorbing hphase).1
  emitting hphase := by
    obtain ⟨hlen, -⟩ := h.emitted (.inl hphase)
    obtain ⟨-, hfits, -⟩ := h.emitting hphase
    exact ⟨hlen ▸ hfits, emitCounts_of_blockInv h hphase⟩
  receiving hphase := (h.headerPhase hphase).1

section
variable {s : State} {p : Phase}

theorem bounded_of_absorb (hphase : s.phase = .absorb) (h : s.len.toNat ≤ s.cfg.bufBytes.toNat) : Bounded s :=
  ⟨fun _ => h, hphase ▸ nofun, hphase ▸ nofun⟩

theorem bounded_of_emit (hphase : s.phase = .emit) (hfits : s.hdr.dataLen.toNat ≤ s.cfg.bufBytes.toNat)
    (hc : EmitCounts s) (hleft : ¬ frameSent s) : Bounded s :=
  ⟨hphase ▸ nofun, fun _ => ⟨hfits, hc, hleft⟩, hphase ▸ nofun⟩

theorem bounded_of_rxhdr (hphase : s.phase = .rxhdr) (h : s.hpos.toNat < 16) : Bounded s :=
  ⟨hphase ▸ nofun, hphase ▸ nofun, fun _ => h⟩

theorem bounded_of_rest (hphase : s.phase = p) (hp : p = .idle ∨ p = .rxpay ∨ p = .done) : Bounded s := by
  obtain rfl | rfl | rfl := hp <;> exact ⟨hphase ▸ nofun, hphase ▸ nofun, hphase ▸ nofun⟩

end

/-- The buffer's contents, `ERR` and the port do not count. -/
theorem Bounded.others {s : State} (h : Bounded s) (m : Memory) (epoch : Nat) (e : Option FaultCode)
    (r : Option Response) : Bounded { s with buf := m, bufEpoch := epoch, err := e, rsp := r } where
  absorbing := h.absorbing
  emitting hphase := by
    obtain ⟨hfits, ⟨hheader, hpayload, horder⟩, hleft⟩ := h.emitting hphase
    exact ⟨hfits, ⟨hheader, hpayload, horder⟩, hleft⟩
  receiving := h.receiving

theorem Bounded.answer {s : State} (h : Bounded s) (e : BitVec 4) (d : Word) : Bounded (answer e d s) :=
  h.others s.buf s.bufEpoch s.err _

theorem Bounded.faulted {s : State} (h : Bounded s) (c : FaultCode) : Bounded (faulted c s) :=
  h.others s.buf s.bufEpoch (some c) _

theorem toNat_pos_of_ne_zero {x : Word} (h : x ≠ 0) : 0 < x.toNat :=
  Nat.pos_of_ne_zero fun hx => h (BitVec.eq_of_toNat_eq hx)

theorem lt_of_le_of_word_ne {x y : Word} (hle : x.toNat ≤ y.toNat) (hne : x ≠ y) : x.toNat < y.toNat :=
  lt_of_le_of_ne hle fun h => hne (BitVec.eq_of_toNat_eq h)

section
variable {i : Instr} {s t : State}

/-- A command's own rule keeps the counters in their ranges. -/
theorem ownRule_bounded (hb : Bounded s) (h : OwnRule i s t) : Bounded t := by
  cases i with
  | clr =>
    obtain rfl := h
    exact bounded_of_absorb rfl (Nat.zero_le _)
  | push b =>
    obtain ⟨hphase, ⟨-, rfl⟩ | ⟨hroom, rfl⟩⟩ := h
    · exact hb.faulted _
    · have hlt := lt_of_le_of_word_ne (hb.absorbing hphase) hroom
      exact bounded_of_absorb hphase ((toNat_add_one_of_lt hlt).trans_le hlt)
  | enc j =>
    obtain ⟨hphase, ⟨-, rfl⟩ | ⟨-, rfl⟩⟩ := h <;>
      exact bounded_of_emit rfl (hb.absorbing hphase) (emitCounts_of_zero rfl rfl).1 (emitCounts_of_zero rfl rfl).2
  | pop =>
    obtain ⟨hdone, -⟩ | ⟨hemit, hmore⟩ := ownRule_pop_phase h
    · exact bounded_of_rest hdone (by decide)
    · obtain ⟨hfits, hc, hleft⟩ := hb.emitting h.1
      obtain ⟨hhdr, -, hct⟩ := ownRule_pop_counts hc hleft h
      have hcfg : t.cfg = s.cfg := by rw [ownRule_pop_same h]
      exact bounded_of_emit hemit (by rwa [hhdr, hcfg]) hct hmore
  | rxs =>
    obtain rfl := h
    exact bounded_of_rxhdr rfl (by decide : 0 < 16)
  | rxb b =>
    obtain ⟨hphase, ⟨hpos, rfl⟩ | ⟨-, -, rfl⟩ | ⟨-, -, rfl⟩⟩ | ⟨hphase, ⟨-, rfl⟩ | ⟨-, rfl⟩⟩ := h
    · exact bounded_of_rxhdr hphase ((hpos_succ (by omega)).trans_lt (Nat.succ_lt_succ hpos))
    · exact bounded_of_rest (p := .done) rfl (by decide)
    · exact bounded_of_rest (p := .rxpay) rfl (by decide)
    · exact bounded_of_rest (p := .done) rfl (by decide)
    · exact bounded_of_rest hphase (by decide)
  | rxe =>
    obtain ⟨-, ⟨-, rfl⟩ | ⟨-, rfl⟩⟩ := h <;> exact bounded_of_rest (p := .done) rfl (by decide)
  | rd r =>
    obtain ⟨g, -, rfl⟩ | ⟨-, -, rfl⟩ := h
    · exact hb.answer _ _
    · exact hb.faulted _
  | rst =>
    obtain rfl := h
    exact bounded_of_rest (p := .idle) rfl (by decide)

/-- Every word keeps the counters in their ranges. -/
theorem issue_bounded {w : CmdWord} (hb : Bounded s) (h : issue w s = .next t) : Bounded t := by
  obtain ⟨-, rfl⟩ | ⟨-, c, rfl⟩ | ⟨i, -, -, -, hown⟩ := issue_ownRule_cases h
  · exact hb.answer _ _
  · exact hb.faulted _
  · exact ownRule_bounded hb hown

/-- The common checks go on if the command's own rule does. -/
theorem checked_goes {own : Out} (h : accepts i s.phase = true → ∃ t, own = .next t) :
    ∃ t, checked i s own = .next t := by
  obtain ⟨-, -, heq⟩ | ⟨-, -, heq⟩ | ⟨-, haccepts, heq⟩ := checked_cases i s own <;> rw [heq]
  · exact ⟨_, rfl⟩
  · exact ⟨_, rfl⟩
  · exact h haccepts

theorem emitByte_goes (b : Byte) (hdr : Bool) (t : State) : ∃ u, emitByte b hdr t = .next u := by
  obtain ⟨-, -, heq⟩ | ⟨-, heq⟩ := emitByte_cases b hdr t <;> exact ⟨_, heq⟩

theorem afterHeaderByte_goes (t : State) : ∃ u, afterHeaderByte t = .next u := by
  obtain ⟨-, heq⟩ | ⟨-, -, heq⟩ | ⟨-, -, heq⟩ := afterHeaderByte_cases t <;> exact ⟨_, heq⟩

theorem receivePayloadByte_goes (b : Byte) (s : State) : ∃ u, receivePayloadByte b s = .next u := by
  obtain ⟨-, heq⟩ | ⟨-, heq⟩ := receivePayloadByte_cases b s <;> exact ⟨_, heq⟩

/-- Within the bounds every command answers a next state. -/
theorem exec_goes (i : Instr) (hb : Bounded s) : ∃ t, exec i s = .next t := by
  cases i with
  | clr | rxs | rst => exact checked_goes fun _ => ⟨_, rfl⟩
  | push b =>
    refine checked_goes fun haccepts => ?_
    split
    · exact ⟨_, rfl⟩
    · next hroom =>
      have hlt := lt_of_le_of_word_ne (hb.absorbing (absorb_of_accepts haccepts)) hroom
      exact ⟨_, memWrite_inside _ _ hlt⟩
  | enc j =>
    refine checked_goes fun haccepts => ?_
    split
    · next hinj =>
      have hlt : 0 < s.cfg.bufBytes.toNat :=
        (toNat_pos_of_ne_zero hinj.2).trans_le (hb.absorbing (absorb_of_accepts (b := 0) haccepts))
      exact ⟨_, (memRead_inside (s := freezeHeader s) _ hlt).trans (memWrite_inside (s := freezeHeader s) _ _ hlt)⟩
    · exact ⟨_, rfl⟩
  | pop =>
    refine checked_goes fun haccepts => ?_
    split
    · exact emitByte_goes _ _ _
    · next hpay =>
      obtain ⟨hfits, hc, hleft⟩ := hb.emitting (emit_of_accepts haccepts)
      obtain ⟨-, hlt⟩ := (emit_left hc hleft).resolve_left hpay
      rw [memRead_inside _ (hlt.trans_le hfits)]
      exact emitByte_goes _ _ _
  | rxb b =>
    refine checked_goes fun _ => ?_
    split
    · next hphase =>
      rw [receiveHeaderByte, if_pos (hb.receiving hphase)]
      exact afterHeaderByte_goes _
    · exact receivePayloadByte_goes b s
  | rxe => exact checked_goes fun _ => by split <;> exact ⟨_, rfl⟩
  | rd r => exact checked_goes fun _ => by split <;> exact ⟨_, rfl⟩

/-- Within the bounds every word is answered, and the counters stay in bounds. -/
theorem issue_goes (w : CmdWord) (hb : Bounded s) : ∃ t, issue w s = .next t ∧ Bounded t := by
  have hnext : ∃ t, issue w s = .next t := by
    cases hw : decode w with
    | error e =>
      rw [issue_error hw, illegalWord_eq]
      split <;> exact ⟨_, rfl⟩
    | ok i =>
      rw [issue_ok hw]
      exact exec_goes i hb
  obtain ⟨t, h⟩ := hnext
  exact ⟨t, h, issue_bounded hb h⟩

end

end Sys2Proof.Proofs

/-! What the buffer held before a message is never seen (spec/20_memory.md R54, spec/70_reset_and_hazards.md R177): two
blocks that differ in the bytes outside the message answer alike. -/

namespace Sys2Proof.Proofs

open Sys2Proof Sys2Proof.Machine

/-! ### A command does what its own rule says -/

section
variable {i : Instr} {s t : State}

theorem checked_own (own : Out) (herr : s.err = none ∨ runsHalted i = true) (haccepts : accepts i s.phase = true) :
    checked i s own = own := by
  obtain hnone | hruns := herr
  · exact checked_ready own ⟨hnone, haccepts⟩
  · exact checked_runsHalted own hruns haccepts

/-- The end of POP with its last-byte mark read from the counters (R123). -/
theorem emitByte_of_last {b : Byte} {last hdr : Bool} (hphase : t.phase = .emit) (hlast : last = true ↔ frameSent t) :
    emitByte b hdr t = .next (afterPop b last hdr t) := by
  cases last with
  | true => exact if_pos (hlast.mp rfl)
  | false =>
    have hstay : afterPop b false hdr t = answer 0 (popData b false hdr) t :=
      congrArg (answer 0 _) (enter_emit_of_emit hphase)
    rw [hstay]
    exact if_neg fun hsent => Bool.false_ne_true (hlast.mpr hsent)

/-- Within the bounds, a command whose checks pass does what its own rule says: the rule is the inverse of
`exec_cases`. -/
theorem exec_of_ownRule (hb : Bounded s) (herr : s.err = none ∨ runsHalted i = true)
    (haccepts : accepts i s.phase = true) (h : OwnRule i s t) : exec i s = .next t := by
  cases i with
  | clr | rxs | rst =>
    obtain rfl := h
    exact checked_own _ herr haccepts
  | push b =>
    refine (checked_own _ herr haccepts).trans ?_
    obtain ⟨hphase, ⟨hfull, rfl⟩ | ⟨hroom, rfl⟩⟩ := h
    · exact if_pos hfull
    · exact (if_neg hroom).trans (memWrite_inside _ _ (lt_of_le_of_word_ne (hb.absorbing hphase) hroom))
  | enc j =>
    have hnone := herr.resolve_right Bool.false_ne_true
    obtain ⟨hphase, ⟨hinj, rfl⟩ | ⟨hinj, rfl⟩⟩ := h
    · have hpos : 0 < s.len.toNat := toNat_pos_of_ne_zero hinj.2
      exact exec_enc_inject hnone hphase (hpos.trans_le (hb.absorbing hphase)) hinj
    · exact exec_enc_plain hnone hphase hinj
  | pop =>
    have hnone := herr.resolve_right Bool.false_ne_true
    obtain ⟨hphase, last, ⟨hhdr, rfl, hlast⟩ | ⟨hpay, rfl, hlast⟩⟩ := h
    · exact (exec_pop_header hnone hphase hhdr).trans (emitByte_of_last hphase hlast)
    · obtain ⟨hfits, hc, hleft⟩ := hb.emitting hphase
      obtain ⟨-, hlt⟩ := (emit_left hc hleft).resolve_left hpay.not_gt
      exact (exec_pop_payload hnone hphase hpay (hlt.trans_le hfits)).trans (emitByte_of_last hphase hlast)
  | rxb b =>
    have hnone := herr.resolve_right Bool.false_ne_true
    obtain ⟨hphase, hcase⟩ | ⟨hphase, hcase⟩ := h
    · have hlt := hb.receiving hphase
      have hcount : (placeHeaderByte b s).hpos.toNat = s.hpos.toNat + 1 := hpos_succ hlt
      refine (exec_rxb_header b hnone hphase hlt).trans ?_
      obtain ⟨hpos, rfl⟩ | ⟨hpos, hlen, rfl⟩ | ⟨hpos, hlen, rfl⟩ := hcase
      · exact if_pos (by omega)
      · exact (if_neg (by omega)).trans (if_pos hlen)
      · exact (if_neg (by omega)).trans (if_neg hlen)
    · refine (exec_rxb_payload b hnone hphase).trans ?_
      obtain ⟨hlen, rfl⟩ | ⟨hlen, rfl⟩ := hcase
      · exact if_pos hlen
      · exact if_neg hlen
  | rxe =>
    refine (checked_own _ herr haccepts).trans ?_
    obtain ⟨-, ⟨hclosed, rfl⟩ | ⟨hopen, rfl⟩⟩ := h
    · exact if_pos hclosed
    · exact if_neg hopen
  | rd r =>
    refine (checked_own _ herr haccepts).trans ?_
    obtain ⟨g, hg, rfl⟩ | ⟨hg, -, rfl⟩ := h <;> rw [hg] <;> rfl

/-! ### Another buffer -/

/-- The state with other bytes in the buffer, written and unwritten. -/
def rebuffer (m : Memory) (epoch : Nat) (s : State) : State := { s with buf := m, bufEpoch := epoch }

/-- The number of bytes of the buffer that belong to the message or the frame. -/
def messageBytes (s : State) : Nat :=
  match s.phase with
  | .absorb => s.len.toNat
  | .emit => s.hdr.dataLen.toNat
  | .idle | .rxhdr | .rxpay | .done => 0

theorem messageBytes_absorb (h : s.phase = .absorb) : messageBytes s = s.len.toNat := by
  rw [messageBytes, h]

theorem messageBytes_rx (h : s.phase = .rxhdr ∨ s.phase = .rxpay) : messageBytes s = 0 := by
  obtain h | h := h <;> rw [messageBytes, h]

theorem messageBytes_emit (h : s.phase = .emit) : messageBytes s = s.hdr.dataLen.toNat := by
  rw [messageBytes, h]

/-- The other bytes agree with the buffer's on the message. -/
def SameMessage (m : Memory) (epoch : Nat) (s : State) : Prop :=
  ∀ a < messageBytes s, readBuf (rebuffer m epoch s) a = readBuf s a

/-- What a step makes of the other buffer: the same next state but for the bytes outside the message, which are the same
too if they were. -/
def Alike (m : Memory) (epoch : Nat) (s t : State) (m' : Memory) : Prop :=
  SameMessage m' epoch t ∧ (m = s.buf → m' = t.buf)

theorem readBuf_rebuffer_congr (m : Memory) (epoch : Nat) (s t : State) (a : Nat) :
    readBuf (rebuffer m epoch t) a = readBuf (rebuffer m epoch s) a := rfl

/-- A step that leaves the buffer and adds nothing to the message. -/
theorem alike_of_kept {m : Memory} {epoch : Nat} (hm : SameMessage m epoch s) (hbuf : t.buf = s.buf)
    (hepoch : t.bufEpoch = s.bufEpoch) (hmore : messageBytes t ≤ messageBytes s) : Alike m epoch s t m := by
  refine ⟨fun a ha => ?_, fun h => h.trans hbuf.symm⟩
  rw [readBuf_rebuffer_congr m epoch s, hm a (ha.trans_le hmore), readBuf_congr hbuf hepoch]

/-- A step that writes one byte and adds at most that byte to the message. -/
theorem alike_of_written {m : Memory} {epoch x : Nat} {v : Byte} (hm : SameMessage m epoch s)
    (hbuf : t.buf = Memory.write s.buf x v) (hepoch : t.bufEpoch = s.bufEpoch)
    (hmore : ∀ a < messageBytes t, a ≠ x → a < messageBytes s) : Alike m epoch s t (Memory.write m x v) := by
  have ht : ∀ a, readBuf t a = readBuf (writeBuf s x v) a := fun a => readBuf_congr (s := writeBuf s x v) hbuf hepoch a
  have hother : ∀ a, readBuf (rebuffer (Memory.write m x v) epoch t) a =
      readBuf (writeBuf (rebuffer m epoch s) x v) a := fun _ => rfl
  refine ⟨fun a ha => ?_, fun h => (congrArg (Memory.write · x v) h).trans hbuf.symm⟩
  rw [ht, hother]
  by_cases hx : a = x
  · rw [hx, readBuf_writeBuf_same, readBuf_writeBuf_same]
  · rw [readBuf_writeBuf_other _ v hx, readBuf_writeBuf_other _ v hx, hm a (hmore a ha hx)]

/-- A command's own rule on the other buffer: it writes the same byte, or nothing, and leads to the same state
otherwise. -/
theorem ownRule_rebuffer {m : Memory} {epoch : Nat} (hb : Bounded s) (hm : SameMessage m epoch s)
    (h : OwnRule i s t) :
    ∃ m', OwnRule i (rebuffer m epoch s) (rebuffer m' epoch t) ∧ Alike m epoch s t m' := by
  cases i with
  | clr | rxs | rst =>
    obtain rfl := h
    exact ⟨m, rfl, alike_of_kept hm rfl rfl (Nat.zero_le _)⟩
  | push b =>
    obtain ⟨hphase, ⟨hfull, rfl⟩ | ⟨hroom, rfl⟩⟩ := h
    · exact ⟨m, ⟨hphase, .inl ⟨hfull, rfl⟩⟩, alike_of_kept hm rfl rfl le_rfl⟩
    · refine ⟨_, ⟨hphase, .inr ⟨hroom, rfl⟩⟩, alike_of_written hm rfl rfl fun a ha hne => ?_⟩
      have ha : a < (s.len + 1).toNat := (messageBytes_absorb (s := absorb b s) hphase) ▸ ha
      rw [messageBytes_absorb hphase]
      have hlen := toNat_add_one_of_lt (lt_of_le_of_word_ne (hb.absorbing hphase) hroom)
      exact lt_of_le_of_ne (Nat.lt_succ_iff.mp (ha.trans_eq hlen)) hne
  | enc j =>
    obtain ⟨hphase, ⟨hinj, rfl⟩ | ⟨hinj, rfl⟩⟩ := h
    · have hpos : 0 < messageBytes s := by
        rw [messageBytes_absorb hphase]
        exact toNat_pos_of_ne_zero hinj.2
      have hread : readBuf (rebuffer m epoch s) 0 = readBuf s 0 := hm 0 hpos
      refine ⟨Memory.write m 0 (injectByte (readBuf s 0)), ⟨hphase, .inl ⟨hinj, ?_⟩⟩,
        alike_of_written hm rfl rfl fun a ha _ => (messageBytes_absorb hphase).symm ▸ ha⟩
      rw [hread]
      rfl
    · exact ⟨m, ⟨hphase, .inr ⟨hinj, rfl⟩⟩, alike_of_kept hm rfl rfl (messageBytes_absorb hphase).ge⟩
  | pop =>
    obtain ⟨hphase, last, h⟩ := h
    have hmore : ∀ (b : Byte) (hdr : Bool) (u : State), u.hdr = s.hdr →
        messageBytes (afterPop b last hdr u) ≤ messageBytes s := fun b hdr u hu => by
      rw [messageBytes_emit hphase, ← hu]
      cases last with
      | false => exact le_rfl
      | true => exact Nat.zero_le _
    obtain ⟨hhdr, rfl, hlast⟩ | ⟨hpay, rfl, hlast⟩ := h
    · exact ⟨m, ⟨hphase, last, .inl ⟨hhdr, rfl, hlast⟩⟩, alike_of_kept hm rfl rfl (hmore _ _ _ rfl)⟩
    · obtain ⟨-, hc, hleft⟩ := hb.emitting hphase
      obtain ⟨-, hlt⟩ := (emit_left hc hleft).resolve_left hpay.not_gt
      have hread : readBuf (rebuffer m epoch s) s.ppos.toNat = readBuf s s.ppos.toNat :=
        hm _ ((messageBytes_emit hphase).symm ▸ hlt)
      refine ⟨m, ⟨hphase, last, .inr ⟨hpay, ?_, hlast⟩⟩, alike_of_kept hm rfl rfl (hmore _ _ _ rfl)⟩
      rw [← hread]
      rfl
  | rxb b =>
    obtain ⟨hphase, ⟨hpos, rfl⟩ | ⟨hpos, hlen, rfl⟩ | ⟨hpos, hlen, rfl⟩⟩ | ⟨hphase, ⟨hlen, rfl⟩ | ⟨hlen, rfl⟩⟩ := h
    · exact ⟨m, .inl ⟨hphase, .inl ⟨hpos, rfl⟩⟩, alike_of_kept hm rfl rfl
        ((messageBytes_rx (s := placeHeaderByte b s) (.inl hphase)).trans_le (Nat.zero_le _))⟩
    · exact ⟨m, .inl ⟨hphase, .inr (.inl ⟨hpos, hlen, rfl⟩)⟩, alike_of_kept hm rfl rfl (Nat.zero_le _)⟩
    · exact ⟨m, .inl ⟨hphase, .inr (.inr ⟨hpos, hlen, rfl⟩)⟩, alike_of_kept hm rfl rfl (Nat.zero_le _)⟩
    · exact ⟨m, .inr ⟨hphase, .inl ⟨hlen, rfl⟩⟩, alike_of_kept hm rfl rfl (Nat.zero_le _)⟩
    · exact ⟨m, .inr ⟨hphase, .inr ⟨hlen, rfl⟩⟩, alike_of_kept hm rfl rfl
        ((messageBytes_rx (s := absorb b s) (.inr hphase)).trans_le (Nat.zero_le _))⟩
  | rxe =>
    obtain ⟨hphase, ⟨hclosed, rfl⟩ | ⟨hopen, rfl⟩⟩ := h
    · exact ⟨m, ⟨hphase, .inl ⟨hclosed, rfl⟩⟩, alike_of_kept hm rfl rfl (Nat.zero_le _)⟩
    · exact ⟨m, ⟨hphase, .inr ⟨hopen, rfl⟩⟩, alike_of_kept hm rfl rfl (Nat.zero_le _)⟩
  | rd r =>
    obtain ⟨g, hg, rfl⟩ | ⟨hg, herr, rfl⟩ := h
    · refine ⟨m, .inl ⟨g, hg, ?_⟩, alike_of_kept hm rfl rfl le_rfl⟩
      cases g <;> rfl
    · exact ⟨m, .inr ⟨hg, herr, rfl⟩, alike_of_kept hm rfl rfl le_rfl⟩

/-- A command on the other buffer: the next state is the same but for the bytes outside the message. -/
theorem exec_rebuffer {m : Memory} {epoch : Nat} (hb : Bounded s) (hm : SameMessage m epoch s)
    (h : exec i s = .next t) :
    ∃ m', exec i (rebuffer m epoch s) = .next (rebuffer m' epoch t) ∧ Alike m epoch s t m' := by
  have hbm : Bounded (rebuffer m epoch s) := hb.others m epoch s.err s.rsp
  obtain ⟨herr, hruns, rfl⟩ | ⟨hnone, hrefused, rfl⟩ | ⟨herr, haccepts, hown⟩ := exec_cases h
  · exact ⟨m, exec_halted (s := rebuffer m epoch s) herr hruns, alike_of_kept hm rfl rfl le_rfl⟩
  · exact ⟨m, exec_wrong_phase (s := rebuffer m epoch s) hnone hrefused, alike_of_kept hm rfl rfl le_rfl⟩
  · obtain ⟨m', hown', halike⟩ := ownRule_rebuffer hb hm hown
    exact ⟨m', exec_of_ownRule hbm herr haccepts hown', halike⟩

/-- A word on the other buffer. -/
theorem issue_rebuffer {m : Memory} {epoch : Nat} {w : CmdWord} (hb : Bounded s) (hm : SameMessage m epoch s)
    (h : issue w s = .next t) :
    ∃ m', issue w (rebuffer m epoch s) = .next (rebuffer m' epoch t) ∧ SameMessage m' epoch t := by
  cases hw : decode w with
  | error e =>
    rw [issue_error hw, illegalWord_eq] at h
    split at h <;> cases h
    · next hnone =>
      exact ⟨m, (issue_error hw _).trans ((illegalWord_eq _).trans (if_pos hnone)),
        (alike_of_kept hm rfl rfl le_rfl).1⟩
    · next herr =>
      exact ⟨m, (issue_error hw _).trans ((illegalWord_eq _).trans (if_neg herr)),
        (alike_of_kept hm rfl rfl le_rfl).1⟩
  | ok i =>
    rw [issue_ok hw] at h
    obtain ⟨m', hexec, hsame, -⟩ := exec_rebuffer hb hm h
    exact ⟨m', (issue_ok hw _).trans hexec, hsame⟩

/-! ### Sessions -/

/-- Every word that is answered puts its response on the port. -/
theorem issue_rsp {w : CmdWord} (h : issue w s = .next t) : ∃ r, t.rsp = some r := by
  obtain ⟨-, rfl⟩ | ⟨-, c, rfl⟩ | ⟨i, -, -, -, d, hrsp, -⟩ := issue_cases h
  · exact ⟨_, rfl⟩
  · exact ⟨_, rfl⟩
  · exact ⟨_, hrsp⟩

/-- A session from a bounded state runs to its end, and on the other buffer it is answered alike. -/
theorem session_rebuffer (ws : List CmdWord) {m : Memory} {epoch : Nat} (hb : Bounded s) (hm : SameMessage m epoch s) :
    ∃ rs u v, session ws s = some (rs, u) ∧ session ws (rebuffer m epoch s) = some (rs, v) := by
  induction ws generalizing s m with
  | nil => exact ⟨[], s, rebuffer m epoch s, rfl, rfl⟩
  | cons w ws ih =>
    obtain ⟨t, hissue, hbt⟩ := issue_goes w hb
    obtain ⟨r, hrsp⟩ := issue_rsp hissue
    obtain ⟨m', hissue', hsame⟩ := issue_rebuffer hb hm hissue
    obtain ⟨rs, u, v, hu, hv⟩ := ih hbt hsame
    refine ⟨r :: rs, u, v, ?_, ?_⟩
    · rw [session_cons hissue hrsp, hu]; rfl
    · rw [session_cons hissue' hrsp, hv]; rfl

/-- What stands on the response port has no effect. -/
theorem issue_port (w : CmdWord) (s : State) (r : Option Response) : issue w { s with rsp := r } = issue w s := by
  unfold issue
  split
  · next i _ => cases i <;> rfl
  · rfl

/-- The port before a session shows in none of its responses. -/
theorem session_port (ws : List CmdWord) (s : State) (r : Option Response) :
    (session ws { s with rsp := r }).map Prod.fst = (session ws s).map Prod.fst := by
  cases ws with
  | nil => rfl
  | cons w ws => rw [session, issue_port, session]

end

/-- Settles O17: the two states differ in the buffer, of which neither has a message, and in the port. -/
theorem softAndHardResetIndistinguishable : Obligations.SoftAndHardResetIndistinguishable := by
  intro s ws
  have hb : Bounded (softReset s) := bounded_of_rest (p := .idle) rfl (by decide)
  obtain ⟨rs, u, v, hu, hv⟩ := session_rebuffer ws (m := []) (epoch := s.bufEpoch + 1) hb
    fun a ha => absurd ha (Nat.not_lt_zero a)
  refine ⟨by rw [hu]; rfl, ?_⟩
  have hhard : (session ws (hardReset s)).map Prod.fst = _ :=
    session_port ws (rebuffer [] (s.bufEpoch + 1) (softReset s)) none
  rw [hhard, hu, hv]
  rfl

/-- A session that starts with CLR is answered `(0, 0)`, and goes on from an empty message (R120). -/
theorem session_clr (ws : List CmdWord) {s : State} (herr : s.err = none) (hstart : canStart s) :
    session (0x1000 :: ws) s =
      (session ws (answer 0 0 (enter .absorb (start s)))).map fun out => (⟨0, 0⟩ :: out.1, out.2) :=
  session_cons ((issue_ok (decode_encode (i := .clr) rfl) s).trans (exec_clr herr hstart)) rfl

/-- Settles O58: CLR starts an empty message on either buffer, and from there they are answered alike. -/
theorem bufferBeforeClrIsUnobservable : Obligations.BufferBeforeClrIsUnobservable := by
  intro s m epoch ws herr hstart
  have hb : Bounded (answer 0 0 (enter .absorb (start s))) := bounded_of_absorb rfl (Nat.zero_le _)
  obtain ⟨rs, u, v, hu, hv⟩ := session_rebuffer ws (m := m) (epoch := epoch) hb
    fun a ha => absurd ha (Nat.not_lt_zero a)
  have hother : session (0x1000 :: ws) { s with buf := m, bufEpoch := epoch } =
      (session ws (rebuffer m epoch (answer 0 0 (enter .absorb (start s))))).map
        fun out => (⟨0, 0⟩ :: out.1, out.2) := session_clr ws (s := rebuffer m epoch s) herr hstart
  rw [hother, session_clr ws herr hstart, hu, hv]
  exact ⟨rfl, rfl⟩

end Sys2Proof.Proofs

/-! The invariant phase by phase (spec/10_state.md R26): what holds in every phase, and what each phase adds. -/

namespace Sys2Proof.Proofs

open Sys2Proof Sys2Proof.Machine

/-! ### The engines -/

theorem parRun_append (acc : Word × Cols) (i : Nat) (u v : List Byte) :
    parRun acc i (u ++ v) = parRun (parRun acc i u) (i + u.length) v := by
  induction u generalizing acc i with
  | nil => rfl
  | cons b u ih =>
    rw [List.cons_append, parRun_cons, ih, parRun_cons, List.length_cons, Nat.add_assoc, Nat.add_comm 1]

/-- Engines that hold `p` hold `p` and the byte after absorbing it, as long as `LEN` does not wrap (R88, R99). -/
theorem enginesHold_absorb {s : State} {p : List Byte} (h : enginesHold s p) (b : Byte)
    (hlen : (s.len + 1).toNat = s.len.toNat + 1) : enginesHold (absorb b s) (p ++ [b]) := by
  obtain ⟨hp, hcrc, hpar⟩ := h
  refine ⟨?_, ?_, ?_⟩
  · rw [List.length_append, hp]; exact hlen.symm
  · rw [crcRun_append, ← hcrc]; rfl
  · rw [parAcc, parRun_append, ← parAcc, ← hpar, Nat.zero_add, hp]; rfl

/-- Engines that hold some sequence have a row of one byte (R26 a). -/
theorem rowHigh_of_enginesHold {s : State} {p : List Byte} (h : enginesHold s p) : s.row.extractLsb' 8 24 = 0 := by
  obtain ⟨-, -, hpar⟩ := h
  have hrow : s.row = zext32 (p.foldl (· ^^^ ·) 0) := (congrArg Prod.fst hpar).trans (compute2DParity_row p)
  rw [hrow, zext32]
  apply BitVec.eq_of_getLsbD_eq
  intro i hi
  rw [BitVec.getLsbD_extractLsb', BitVec.getLsbD_setWidth, BitVec.getLsbD_of_ge _ _ (by omega)]
  simp

/-! ### The parts of the invariant -/

/-- What holds in every phase. -/
structure AlwaysInv (s : State) : Prop where
  config : s.cfg.wf = true
  canonical : Memory.wf s.buf = true
  inside : Memory.below s.cfg.bufBytes.toNat s.buf = true
  headerCount : s.hpos.toNat ≤ 16
  engines : ∃ p, enginesHold s p
  malformedNoVerdict : s.malformed = true → s.vValid = false
  noVerdictNoBad : s.vValid = false → s.crcBad = false ∧ s.rowBad = false ∧ s.colBad = false

theorem alwaysInv_of_blockInv {s : State} (h : BlockInv s) : AlwaysInv s where
  config := h.config
  canonical := h.canonical
  inside := h.inside
  headerCount := h.headerCount
  engines := h.engines
  malformedNoVerdict := h.malformedNoVerdict
  noVerdictNoBad := h.noVerdictNoBad

theorem rowHigh_of_alwaysInv {s : State} (h : AlwaysInv s) : s.row.extractLsb' 8 24 = 0 :=
  h.engines.elim fun _ => rowHigh_of_enginesHold

/-- No verdict of an earlier frame is left. -/
def NoVerdict (s : State) : Prop := s.vValid = false ∧ s.malformed = false

/-- The counters and the header are at 0 (R26 c). -/
def Quiet (s : State) : Prop := s.hpos = 0 ∧ s.ppos = 0 ∧ s.hdr = ⟨0, 0, 0, 0⟩

/-- The engines hold the message in the buffer (R26 d). -/
def MessageInv (s : State) : Prop :=
  s.len.toNat ≤ s.cfg.bufBytes.toNat ∧ writtenBelow s s.len.toNat ∧ enginesHold s (bufPrefix s s.len.toNat)

/-- The header and the buffer are what `encode` transmits for the payload that the engines hold (R122). -/
def FrameInv (s : State) : Prop :=
  s.len.toNat ≤ s.cfg.bufBytes.toNat ∧ writtenBelow s s.len.toNat ∧
    ∃ p, enginesHold s p ∧ s.hdr = headerOf p ∧ bufPrefix s s.len.toNat = transmitted p s.injected

section
variable {s : State} (h : AlwaysInv s)
include h

theorem blockInv_of_idle (hphase : s.phase = .idle) (hq : Quiet s) (hv : NoVerdict s) : BlockInv s where
  __ := h
  rowHigh := rowHigh_of_alwaysInv h
  quiet _ := hq
  absorbing := hphase ▸ nofun
  emitted := by simp [emissionDone, hphase]
  emitting := hphase ▸ nofun
  headerPhase := hphase ▸ nofun
  payloadPhase := hphase ▸ nofun
  receiveCounter := by simp [hphase]
  verdictAtEnd _ := hv

theorem blockInv_of_absorb (hphase : s.phase = .absorb) (hq : Quiet s) (hv : NoVerdict s) (hm : MessageInv s) :
    BlockInv s where
  __ := h
  rowHigh := rowHigh_of_alwaysInv h
  quiet _ := hq
  absorbing _ := hm
  emitted := by simp [emissionDone, hphase]
  emitting := hphase ▸ nofun
  headerPhase := hphase ▸ nofun
  payloadPhase := hphase ▸ nofun
  receiveCounter := by simp [hphase]
  verdictAtEnd _ := hv

theorem blockInv_of_emit (hphase : s.phase = .emit) (hlen : s.hdr.dataLen = s.len) (hc : EmitCounts s)
    (hleft : ¬ frameSent s) (hv : NoVerdict s) (hf : FrameInv s) : BlockInv s where
  __ := h
  rowHigh := rowHigh_of_alwaysInv h
  quiet := by simp [hphase]
  absorbing := hphase ▸ nofun
  emitted _ := ⟨hlen, hc.payload, fun hlate => hpos_eq_16.mpr (hc.order hlate)⟩
  emitting _ := ⟨(emit_left hc hleft).imp_right And.right, hf⟩
  headerPhase := hphase ▸ nofun
  payloadPhase := hphase ▸ nofun
  receiveCounter := by simp [hphase]
  verdictAtEnd _ := hv

theorem blockInv_of_rxhdr (hphase : s.phase = .rxhdr) (hpos : s.hpos.toNat < 16) (hlen : s.len = 0) (hppos : s.ppos = 0)
    (hv : NoVerdict s) : BlockInv s where
  __ := h
  rowHigh := rowHigh_of_alwaysInv h
  quiet := by simp [hphase]
  absorbing := hphase ▸ nofun
  emitted := by simp [emissionDone, hphase]
  emitting := hphase ▸ nofun
  headerPhase _ := ⟨hpos, hlen⟩
  payloadPhase := hphase ▸ nofun
  receiveCounter _ := hppos
  verdictAtEnd _ := hv

theorem blockInv_of_rxpay (hphase : s.phase = .rxpay) (hpos : s.hpos = 16) (hlen : s.len.toNat < s.hdr.dataLen.toNat)
    (hppos : s.ppos = 0) (hv : NoVerdict s) : BlockInv s where
  __ := h
  rowHigh := rowHigh_of_alwaysInv h
  quiet := by simp [hphase]
  absorbing := hphase ▸ nofun
  emitted := by simp [emissionDone, hphase]
  emitting := hphase ▸ nofun
  headerPhase := hphase ▸ nofun
  payloadPhase _ := ⟨hpos, hlen⟩
  receiveCounter _ := hppos
  verdictAtEnd _ := hv

/-- In DONE the counters matter after an emission alone. -/
theorem blockInv_of_done (hphase : s.phase = .done)
    (hsent : NoVerdict s → s.hpos = 16 → s.hdr.dataLen = s.len ∧ EmitCounts s) : BlockInv s where
  __ := h
  rowHigh := rowHigh_of_alwaysInv h
  quiet := by simp [hphase]
  absorbing := hphase ▸ nofun
  emitted hdone := by
    obtain hemit | ⟨-, hvalid, hmal, hpos⟩ := hdone
    · exact Phase.noConfusion (hphase.symm.trans hemit)
    · obtain ⟨hlen, hc⟩ := hsent ⟨hvalid, hmal⟩ hpos
      exact ⟨hlen, hc.payload, fun _ => hpos⟩
  emitting := hphase ▸ nofun
  headerPhase := hphase ▸ nofun
  payloadPhase := hphase ▸ nofun
  receiveCounter := by simp [hphase]
  verdictAtEnd hne := absurd hphase hne

end

end Sys2Proof.Proofs

/-! Every step keeps the invariant (spec/10_state.md R26): one lemma for each way a command's own rule can go. -/

namespace Sys2Proof.Proofs

open Sys2Proof Sys2Proof.Machine

section
variable {s : State}

/-- `ERR`, the inputs and the port are not part of the invariant. -/
theorem blockInv_ports (h : BlockInv s) (e : Option FaultCode) (xs : List Input) (r : Option Response) :
    BlockInv { s with err := e, inputs := xs, rsp := r } where
  __ := h
  emitted := h.emitted

theorem blockInv_answer (h : BlockInv s) (e : BitVec 4) (d : Word) : BlockInv (answer e d s) :=
  blockInv_ports h s.err s.inputs _

theorem blockInv_faulted (h : BlockInv s) (c : FaultCode) : BlockInv (faulted c s) :=
  blockInv_ports h (some c) s.inputs _

/-! ### A fresh start -/

theorem alwaysInv_start {p : Phase} (hcfg : s.cfg.wf = true) (hwf : Memory.wf s.buf = true)
    (hin : Memory.below s.cfg.bufBytes.toNat s.buf = true) : AlwaysInv (enter p (start s)) where
  config := hcfg
  canonical := hwf
  inside := hin
  headerCount := Nat.zero_le 16
  engines := ⟨[], rfl, rfl, rfl⟩
  malformedNoVerdict := nofun
  noVerdictNoBad _ := ⟨rfl, rfl, rfl⟩

theorem blockInv_start_idle (hcfg : s.cfg.wf = true) (hwf : Memory.wf s.buf = true)
    (hin : Memory.below s.cfg.bufBytes.toNat s.buf = true) : BlockInv (enter .idle (start s)) :=
  blockInv_of_idle (alwaysInv_start hcfg hwf hin) rfl ⟨rfl, rfl, rfl⟩ ⟨rfl, rfl⟩

theorem blockInv_hardReset (h : BlockInv s) : BlockInv (hardReset s) :=
  blockInv_ports (blockInv_start_idle (s := { s with buf := [], bufEpoch := s.bufEpoch + 1 }) h.config rfl rfl)
    none s.inputs none

theorem blockInv_softReset (h : BlockInv s) : BlockInv (softReset s) :=
  blockInv_ports (blockInv_start_idle h.config h.canonical h.inside) none s.inputs s.rsp

theorem blockInv_clr (h : BlockInv s) : BlockInv (enter .absorb (start s)) :=
  blockInv_of_absorb (alwaysInv_start h.config h.canonical h.inside) rfl ⟨rfl, rfl, rfl⟩ ⟨rfl, rfl⟩
    ⟨Nat.zero_le _, fun a ha => absurd ha (Nat.not_lt_zero a), rfl, rfl, rfl⟩

theorem blockInv_rxs (h : BlockInv s) : BlockInv (enter .rxhdr (start s)) :=
  blockInv_of_rxhdr (alwaysInv_start h.config h.canonical h.inside) rfl (by decide : 0 < 16) rfl rfl ⟨rfl, rfl⟩

/-! ### Absorbing and freezing a message -/

theorem writtenBelow_writeBuf {n : Nat} (h : writtenBelow s n) (x : Nat) (v : Byte) :
    writtenBelow (writeBuf s x v) n := by
  intro a ha
  by_cases hx : a = x
  · rw [hx, writeBuf_buf, Memory.read_write_same]; rfl
  · rw [writeBuf_buf, Memory.read_write_other _ v hx]; exact h a ha

theorem writtenBelow_writeBuf_succ {n : Nat} (h : writtenBelow s n) (v : Byte) :
    writtenBelow (writeBuf s n v) (n + 1) := by
  intro a ha
  obtain hlt | rfl := Nat.lt_succ_iff_lt_or_eq.mp ha
  · exact writtenBelow_writeBuf h n v a hlt
  · rw [writeBuf_buf, Memory.read_write_same]; rfl

theorem bufPrefix_writeBuf_succ (s : State) (n : Nat) (v : Byte) :
    bufPrefix (writeBuf s n v) (n + 1) = bufPrefix s n ++ [v] := by
  rw [bufPrefix_succ, readBuf_writeBuf_same, bufPrefix_congr fun a ha => readBuf_writeBuf_other s v ha.ne]

theorem blockInv_push (h : BlockInv s) (b : Byte) (hphase : s.phase = .absorb) (hroom : s.len ≠ s.cfg.bufBytes) :
    BlockInv (absorb b (writeBuf s s.len.toNat b)) := by
  obtain ⟨hle, hwritten, hengines⟩ := h.absorbing hphase
  have hlt : s.len.toNat < s.cfg.bufBytes.toNat := lt_of_le_of_word_ne hle hroom
  have hlen : (s.len + 1).toNat = s.len.toNat + 1 := toNat_add_one_of_lt hlt
  have hnew : enginesHold (absorb b (writeBuf s s.len.toNat b)) (bufPrefix s s.len.toNat ++ [b]) :=
    enginesHold_absorb (s := writeBuf s s.len.toNat b) hengines b hlen
  refine blockInv_of_absorb { alwaysInv_of_blockInv h with
      canonical := Memory.wf_write _ _ _ h.canonical
      inside := Memory.below_write _ _ _ _ h.inside hlt
      engines := ⟨_, hnew⟩ } hphase (h.quiet (.inr hphase)) (h.verdictAtEnd (hphase ▸ nofun)) ⟨?_, ?_, ?_⟩
  · exact hlen.trans_le hlt
  · rw [absorb_len, writeBuf_len, hlen]
    exact writtenBelow_writeBuf_succ hwritten b
  · rw [absorb_len, writeBuf_len, hlen]
    exact (bufPrefix_writeBuf_succ s _ b).symm ▸ hnew

theorem blockInv_enc_plain (h : BlockInv s) (hphase : s.phase = .absorb) :
    BlockInv (enter .emit (rewind false (freezeHeader s))) := by
  obtain ⟨hle, hwritten, hengines⟩ := h.absorbing hphase
  exact blockInv_of_emit { alwaysInv_of_blockInv h with headerCount := Nat.zero_le _ } rfl rfl
    (emitCounts_of_zero rfl rfl).1 (emitCounts_of_zero rfl rfl).2 (h.verdictAtEnd (hphase ▸ nofun))
    ⟨hle, hwritten, _, hengines, freezeHeader_hdr_of_enginesHold hengines, rfl⟩

theorem blockInv_enc_inject (h : BlockInv s) (hphase : s.phase = .absorb) (hne : s.len ≠ 0) :
    BlockInv (enter .emit (rewind true (writeBuf (freezeHeader s) 0 (injectByte (readBuf s 0))))) := by
  obtain ⟨hle, hwritten, hengines⟩ := h.absorbing hphase
  have hpos : 0 < s.len.toNat := toNat_pos_of_ne_zero hne
  refine blockInv_of_emit { alwaysInv_of_blockInv h with
      canonical := Memory.wf_write _ _ _ h.canonical
      inside := Memory.below_write _ _ _ _ h.inside (hpos.trans_le hle)
      headerCount := Nat.zero_le _ } rfl rfl (emitCounts_of_zero rfl rfl).1 (emitCounts_of_zero rfl rfl).2
    (h.verdictAtEnd (hphase ▸ nofun))
    ⟨hle, writtenBelow_writeBuf hwritten _ _, _, hengines, freezeHeader_hdr_of_enginesHold hengines, ?_⟩
  exact bufPrefix_writeBuf_inject (freezeHeader s) s.len.toNat

/-! ### Emitting -/

theorem blockInv_pop {t : State} (h : BlockInv s) (hown : OwnRule .pop s t) : BlockInv t := by
  obtain ⟨hc, hleft⟩ := emitCounts_of_blockInv h hown.1
  obtain ⟨hhdr, -, hct⟩ := ownRule_pop_counts hc hleft hown
  obtain ⟨hlen, -⟩ := h.emitted (.inl hown.1)
  obtain ⟨-, hframe⟩ := h.emitting hown.1
  have hsame := ownRule_pop_same hown
  have halways : AlwaysInv t := by
    rw [hsame]
    exact { alwaysInv_of_blockInv h with headerCount := hct.header }
  have hlen' : t.hdr.dataLen = t.len := by rw [hsame]; exact hlen
  obtain ⟨hdone, -⟩ | ⟨hemit, hmore⟩ := ownRule_pop_phase hown
  · exact blockInv_of_done halways hdone fun _ _ => ⟨hlen', hct⟩
  · refine blockInv_of_emit halways hemit hlen' hct hmore ?_ ?_
    · rw [hsame]; exact h.verdictAtEnd (hown.1 ▸ nofun)
    · rw [hsame]; exact hframe

/-! ### Receiving -/

/-- After a verdict only what holds in every phase is left to show. -/
theorem blockInv_afterVerdict {u : State} (h : AlwaysInv u) (hmal : u.malformed = false) : BlockInv (afterVerdict u) :=
  blockInv_of_done { h with
      malformedNoVerdict := fun hm => Bool.noConfusion (hmal.symm.trans hm)
      noVerdictNoBad := nofun } rfl fun hv _ => absurd hv.1 Bool.true_eq_false_eq_False

theorem blockInv_rxb {t : State} {b : Byte} (h : BlockInv s) (hown : OwnRule (.rxb b) s t) : BlockInv t := by
  obtain ⟨hphase, hcase⟩ | ⟨hphase, hcase⟩ := hown
  · obtain ⟨hpos, hlen⟩ := h.headerPhase hphase
    have hppos := h.receiveCounter (.inl hphase)
    have hv : NoVerdict s := h.verdictAtEnd (hphase ▸ nofun)
    have hcount : (s.hpos + 1).toNat = s.hpos.toNat + 1 := hpos_succ hpos
    have halways : AlwaysInv (placeHeaderByte b s) :=
      { alwaysInv_of_blockInv h with headerCount := hcount.trans_le hpos }
    obtain ⟨h15, rfl⟩ | ⟨h15, -, rfl⟩ | ⟨h15, hne, rfl⟩ := hcase
    · have hmore : (placeHeaderByte b s).hpos.toNat < 16 := hcount.trans_lt (by omega)
      exact blockInv_answer (blockInv_of_rxhdr halways hphase hmore hlen hppos hv) 0 0
    · exact blockInv_afterVerdict halways hv.2
    · refine blockInv_answer (s := enter .rxpay (placeHeaderByte b s)) ?_ 0 0
      refine blockInv_of_rxpay { halways with } rfl ?_ ?_ hppos hv
      · exact hpos_eq_16.mpr (hcount.trans (congrArg (· + 1) h15))
      · change s.len.toNat < _
        rw [hlen]
        exact toNat_pos_of_ne_zero hne
  · obtain ⟨hpos, hlt⟩ := h.payloadPhase hphase
    have hv : NoVerdict s := h.verdictAtEnd (hphase ▸ nofun)
    have hlen : (s.len + 1).toNat = s.len.toNat + 1 := toNat_add_one_of_lt hlt
    have halways : AlwaysInv (absorb b s) :=
      { alwaysInv_of_blockInv h with
        engines := h.engines.elim fun p hp => ⟨p ++ [b], enginesHold_absorb hp b hlen⟩ }
    obtain ⟨-, rfl⟩ | ⟨hne, rfl⟩ := hcase
    · exact blockInv_afterVerdict halways hv.2
    · exact blockInv_answer (blockInv_of_rxpay halways hphase hpos (lt_of_le_of_word_ne (hlen.trans_le hlt) hne)
        (h.receiveCounter (.inr hphase)) hv) 0 0

theorem blockInv_rxe {t : State} (h : BlockInv s) (hown : OwnRule .rxe s t) : BlockInv t := by
  obtain ⟨hphase, hcase⟩ := hown
  have hv : NoVerdict s := h.verdictAtEnd (by obtain hp | hp := hphase <;> exact hp ▸ nofun)
  obtain ⟨⟨-, h0⟩, rfl⟩ | ⟨-, rfl⟩ := hcase
  · refine blockInv_answer (s := enter .done s) ?_ 0 4
    exact blockInv_of_done { alwaysInv_of_blockInv h with } rfl fun _ h16 => absurd (h0.symm.trans h16) (by decide)
  · refine blockInv_answer (s := enter .done (setMalformed s)) ?_ 0 3
    exact blockInv_of_done { alwaysInv_of_blockInv h with malformedNoVerdict := fun _ => hv.1 } rfl
      fun hmal _ => Bool.noConfusion hmal.2

/-! ### The step -/

/-- Every command's own rule keeps the invariant. -/
theorem ownRule_keeps_inv {i : Instr} {t : State} (h : BlockInv s) (hown : OwnRule i s t) : BlockInv t := by
  cases i with
  | clr => obtain rfl := hown; exact blockInv_answer (blockInv_clr h) 0 0
  | push b =>
    obtain ⟨hphase, ⟨-, rfl⟩ | ⟨hroom, rfl⟩⟩ := hown
    · exact blockInv_faulted h .bufferFull
    · exact blockInv_answer (blockInv_push h b hphase hroom) 0 0
  | enc j =>
    obtain ⟨hphase, ⟨⟨-, hne⟩, rfl⟩ | ⟨-, rfl⟩⟩ := hown
    · exact blockInv_answer (blockInv_enc_inject h hphase hne) 0 0
    · exact blockInv_answer (blockInv_enc_plain h hphase) 0 0
  | pop => exact blockInv_pop h hown
  | rxs => obtain rfl := hown; exact blockInv_answer (blockInv_rxs h) 0 0
  | rxb b => exact blockInv_rxb h hown
  | rxe => exact blockInv_rxe h hown
  | rd r =>
    obtain ⟨g, -, rfl⟩ | ⟨-, -, rfl⟩ := hown
    · exact blockInv_answer h 0 _
    · exact blockInv_faulted h .illegalCommand
  | rst => obtain rfl := hown; exact blockInv_answer (blockInv_softReset h) 0 0

/-- Every word keeps the invariant. -/
theorem issue_keeps_inv {w : CmdWord} {t : State} (h : BlockInv s) (hissue : issue w s = .next t) : BlockInv t := by
  obtain ⟨-, rfl⟩ | ⟨-, c, rfl⟩ | ⟨i, -, -, -, hown⟩ := issue_ownRule_cases hissue
  · exact blockInv_answer h 4 0
  · exact blockInv_faulted h c
  · exact ownRule_keeps_inv h hown

end

/-- Settles O50: the reset state is a fresh start with nothing in the buffer. -/
theorem resetStateMeetsInvariant : Obligations.ResetStateMeetsInvariant :=
  blockInv_start_idle (s := State.reset) (by decide) rfl rfl

/-- Settles O51: a step waits, resets, or issues a word, and each of them keeps the invariant. -/
theorem stepKeepsInvariant : Obligations.StepKeepsInvariant := by
  intro s t h hstep
  obtain ⟨-, rfl⟩ | ⟨rest, -, rfl⟩ | ⟨w, rest, -, hissue⟩ := step_cases hstep
  · exact h
  · exact blockInv_hardReset (blockInv_ports h s.err rest s.rsp)
  · exact issue_keeps_inv (blockInv_ports h s.err rest s.rsp) hissue

/-- Settles O52: the invariant bounds the counters, within the bounds every word is answered, and the invariant is
kept. -/
theorem invariantStatesNeverStop : Obligations.InvariantStatesNeverStop := by
  refine fun s h => ⟨?step, fun ws => ?session⟩
  case step =>
    cases hin : s.inputs with
    | nil => exact ⟨s, step_idle hin⟩
    | cons x rest =>
      cases x with
      | hardReset => exact ⟨_, step_hardReset hin⟩
      | command w =>
        obtain ⟨t, hissue, -⟩ := issue_goes w (bounded_of_blockInv (blockInv_ports h s.err rest s.rsp))
        exact ⟨t, (step_command hin).trans hissue⟩
  case session =>
    induction ws generalizing s with
    | nil => exact ⟨[], s, rfl, rfl, h⟩
    | cons w ws ih =>
      obtain ⟨t, hissue, -⟩ := issue_goes w (bounded_of_blockInv h)
      obtain ⟨r, hrsp⟩ := issue_rsp hissue
      obtain ⟨rs, u, hu, hcount, hinv⟩ := ih t (issue_keeps_inv h hissue)
      exact ⟨r :: rs, u, by rw [session_cons hissue hrsp, hu]; rfl, congrArg (· + 1) hcount, hinv⟩

end Sys2Proof.Proofs

/-! The order of the checks (spec/60_exceptions.md R158): a command that none of them stops is executed. -/

namespace Sys2Proof.Proofs

open Sys2Proof Sys2Proof.Machine

/-- A legal RD word and the RST word stand for commands that a halted block executes (R155). -/
theorem runsHalted_of_servesHalted {w : CmdWord} {i : Instr} (hw : decode w = .ok i) (h : servesHalted w) :
    runsHalted i = true := by
  obtain ⟨hrow, hle⟩ | rfl := h
  · have hi : i = .rd (w.extractLsb' 0 8) :=
      Except.ok.inj (hw.symm.trans ((decode_eq_rd_iff w _).mpr ⟨hrow, rfl, hle⟩))
    obtain ⟨g, hg⟩ := exists_regNumber_eq hle
    rw [hi, ← hg]
    exact congrArg Option.isSome (regOf_regNumber g)
  · have hi : i = .rst := Except.ok.inj (hw.symm.trans (decode_encode (i := .rst) rfl))
    rw [hi]; rfl

/-- The own rule of a legal command answers `err = 0`, unless it is a PUSH into a full buffer. -/
theorem ownRule_executed {i : Instr} {s t : State} (hwf : i.WellFormed = true)
    (hroom : ¬ ((∃ b, i = .push b) ∧ s.len = s.cfg.bufBytes)) (h : OwnRule i s t) : ∃ d, t.rsp = some ⟨0, d⟩ := by
  cases i with
  | clr | rxs | rst =>
    obtain rfl := h
    exact ⟨0, rfl⟩
  | push b =>
    obtain ⟨-, ⟨hfull, -⟩ | ⟨-, rfl⟩⟩ := h
    · exact absurd ⟨⟨b, rfl⟩, hfull⟩ hroom
    · exact ⟨0, rfl⟩
  | enc j | rxe =>
    obtain ⟨-, ⟨-, rfl⟩ | ⟨-, rfl⟩⟩ := h <;> exact ⟨_, rfl⟩
  | pop =>
    obtain ⟨-, last, ⟨-, rfl, -⟩ | ⟨-, rfl, -⟩⟩ := h <;> exact ⟨_, rfl⟩
  | rxb b =>
    obtain ⟨-, ⟨-, rfl⟩ | ⟨-, -, rfl⟩ | ⟨-, -, rfl⟩⟩ | ⟨-, ⟨-, rfl⟩ | ⟨-, rfl⟩⟩ := h <;> exact ⟨_, rfl⟩
  | rd r =>
    obtain ⟨g, -, rfl⟩ | ⟨hnone, -, -⟩ := h
    · exact ⟨_, rfl⟩
    · obtain ⟨g, rfl⟩ := exists_regNumber_eq (of_decide_eq_true hwf)
      exact nomatch (regOf_regNumber g).symm.trans hnone

/-- Settles O8: each check by the equation of what it answers; past all of them the command's own rule has run. -/
theorem checkOrderIsFixed : Obligations.CheckOrderIsFixed := by
  intro w s
  obtain ⟨-, -, -, hillegal⟩ := illegalWordsAreExactlyReserved
  refine ⟨haltedBlockIgnoresCommands.1 w s, fun hnone hw => (hillegal w s hw).1 hnone, fun i hnone hw hblank => ?phase,
    fun b hnone hw hphase hfull => ?full, fun i hinv hw hserves hentry hroom => ?executed⟩
  case phase =>
    exact (issue_ok hw s).trans (exec_wrong_phase hnone ((accepts_eq_false_iff i s.phase).mpr hblank))
  case full => exact (issue_ok hw s).trans (exec_push_full b hnone hphase hfull)
  case executed =>
    obtain ⟨t, hexec⟩ := exec_goes i (bounded_of_blockInv hinv)
    have hown : OwnRule i s t := by
      obtain ⟨herr, hruns, -⟩ | ⟨-, hrefused, -⟩ | ⟨-, -, hown⟩ := exec_cases hexec
      · have hserved := runsHalted_of_servesHalted hw (hserves.resolve_left herr)
        exact Bool.noConfusion (hserved.symm.trans hruns)
      · exact absurd ((accepts_eq_false_iff i s.phase).mp hrefused) hentry
      · exact hown
    obtain ⟨d, hrsp⟩ := ownRule_executed ((decode_eq_ok_iff_encode w i).mp hw).2 hroom hown
    exact ⟨t, ⟨0, d⟩, (issue_ok hw s).trans hexec, hrsp, rfl⟩

end Sys2Proof.Proofs

/-! The verdict codes (spec/60_exceptions.md R154): what each says of the phase and the flags. -/

namespace Sys2Proof.Proofs

open Sys2Proof Sys2Proof.Machine

/-- The verdict on a complete frame is FrameOK without any mismatch, and IntegrityMismatch with one (R133). -/
theorem verdictOf_cases (m : Mismatch) :
    (verdictOf m = .frameOK ∧ m = ⟨false, false, false⟩) ∨
    (verdictOf m = .integrityMismatch ∧ anyMismatch m = true) := by
  obtain ⟨c, r, k⟩ := m
  cases c <;> cases r <;> cases k <;> decide

/-- An accepted RXB answers More short of DONE, with the flags as before, or it gives the verdict (R131). -/
theorem ownRule_rxb_more_or_verdict {s t : State} {b : Byte} (h : OwnRule (.rxb b) s t) :
    (t.rsp = some ⟨0, 0⟩ ∧ t.phase ≠ .done ∧ sameVerdict s t ∧ t.malformed = s.malformed ∧ t.err = s.err) ∨
    (∃ u, t = afterVerdict u ∧ u.err = s.err) := by
  by_cases hdone : t.phase = .done
  · obtain ⟨u, herr, ht⟩ := afterVerdict_of_rxb_done h hdone
    exact .inr ⟨u, ht, herr⟩
  · left
    obtain ⟨-, ⟨-, rfl⟩ | ⟨-, -, rfl⟩ | ⟨-, -, rfl⟩⟩ | ⟨-, ⟨-, rfl⟩ | ⟨-, rfl⟩⟩ := h
    · exact ⟨rfl, hdone, ⟨rfl, rfl, rfl, rfl⟩, rfl, rfl⟩
    · exact absurd rfl hdone
    · exact ⟨rfl, hdone, ⟨rfl, rfl, rfl, rfl⟩, rfl, rfl⟩
    · exact absurd rfl hdone
    · exact ⟨rfl, hdone, ⟨rfl, rfl, rfl, rfl⟩, rfl, rfl⟩

/-- Settles O31: RXB answers More or gives one of two verdicts, RXE one of the two others; the flags that RXE leaves are
those of a frame on its way. -/
theorem verdictCodesMatchFlags : Obligations.VerdictCodesMatchFlags := by
  rintro i s t hinv hready hi hexec
  have hown := ownRule_of_ready hready hexec
  obtain ⟨b, rfl⟩ | rfl := hi
  · obtain ⟨hrsp, hphase, hsame, hmal, herr⟩ | ⟨u, rfl, herr⟩ := ownRule_rxb_more_or_verdict hown
    · exact ⟨.more, hrsp, herr.trans hready.1, iff_of_true rfl hphase, fun _ => ⟨hsame, hmal⟩, nofun, nofun, nofun,
        nofun⟩
    · obtain ⟨hv, hm⟩ | ⟨hv, hm⟩ := verdictOf_cases (compareHeader u)
      · refine ⟨.frameOK, congrArg (fun v => some (⟨0, verdictCode v⟩ : Response)) hv, herr.trans hready.1,
          iff_of_false nofun (not_not.mpr rfl), nofun, fun _ => ⟨⟨b, rfl⟩, rfl, ?_⟩, nofun, nofun, nofun⟩
        exact congrArg (fun m : Mismatch => (m.crcBad, m.rowBad, m.colBad)) hm
      · exact ⟨.integrityMismatch, congrArg (fun v => some (⟨0, verdictCode v⟩ : Response)) hv, herr.trans hready.1,
          iff_of_false nofun (not_not.mpr rfl), nofun, nofun, fun _ => ⟨⟨b, rfl⟩, rfl, hm⟩, nofun, nofun⟩
  · obtain ⟨hphase, hcase⟩ := hown
    obtain ⟨hvalid, hmal⟩ := hinv.verdictAtEnd (by obtain hp | hp := hphase <;> exact hp ▸ nofun)
    obtain ⟨hcrc, hrow, hcol⟩ := hinv.noVerdictNoBad hvalid
    obtain ⟨-, rfl⟩ | ⟨-, rfl⟩ := hcase
    · refine ⟨.streamClosed, rfl, hready.1, iff_of_false nofun (not_not.mpr rfl), nofun, nofun, nofun, nofun,
        fun _ => ⟨rfl, ?_⟩⟩
      simp [hvalid, hmal, hcrc, hrow, hcol]
    · refine ⟨.malformedFrame, rfl, hready.1, iff_of_false nofun (not_not.mpr rfl), nofun, nofun, nofun,
        fun _ => ⟨rfl, rfl, ?_⟩, nofun⟩
      simp [hvalid, hcrc, hrow, hcol]

end Sys2Proof.Proofs

/-! The bytes of the buffer that commands read (spec/20_memory.md R54). -/

namespace Sys2Proof.Proofs

open Sys2Proof Sys2Proof.Machine

section
variable {s : State}

theorem readBuf_of_read {a : Nat} {b : Byte} (h : Memory.read s.buf a = some b) : readBuf s a = b := by
  rw [readBuf, h]

/-- Every byte of the message or the frame was written (R26 d, R54). -/
theorem writtenBelow_messageBytes (h : BlockInv s) : writtenBelow s (messageBytes s) := by
  cases hphase : s.phase with
  | absorb =>
    rw [messageBytes_absorb hphase]
    exact (h.absorbing hphase).2.1
  | emit =>
    obtain ⟨hlen, -⟩ := h.emitted (.inl hphase)
    obtain ⟨-, -, hwritten, -⟩ := h.emitting hphase
    rwa [messageBytes_emit hphase, hlen]
  | idle | rxhdr | rxpay | done =>
    rw [messageBytes, hphase]
    exact fun a ha => absurd ha (Nat.not_lt_zero a)

/-- The power-on bytes do not show in the message. -/
theorem sameMessage_epoch (h : BlockInv s) (epoch : Nat) : SameMessage s.buf epoch s := by
  intro a ha
  obtain ⟨b, hb⟩ := Option.isSome_iff_exists.mp (writtenBelow_messageBytes h a ha)
  exact (readBuf_of_read (s := rebuffer s.buf epoch s) hb).trans (readBuf_of_read hb).symm

end

/-- Settles O56: the byte at `PPOS` and the byte at 0 are of the message, hence written; and the other buffer may be the
same bytes at another epoch. -/
theorem onlyWrittenBytesAreRead : Obligations.OnlyWrittenBytesAreRead := by
  intro s hinv
  have hwritten := writtenBelow_messageBytes hinv
  have hbounded := bounded_of_blockInv hinv
  refine ⟨fun hnone hphase hpos => ?pop, fun hnone hphase hlen => ?enc, fun i epoch t hexec => ?epoch⟩
  case pop =>
    obtain ⟨hfits, hc, hleft⟩ := hbounded.emitting hphase
    have hpay : 16 ≤ s.hpos.toNat := (hpos_eq_16.mp hpos).ge
    obtain ⟨-, hlt⟩ := (emit_left hc hleft).resolve_left hpay.not_gt
    obtain ⟨b, hb⟩ := Option.isSome_iff_exists.mp (hwritten s.ppos.toNat (by rwa [messageBytes_emit hphase]))
    have hexec := exec_pop_payload hnone hphase hpay (hlt.trans_le hfits)
    rw [readBuf_of_read hb] at hexec
    obtain ⟨-, -, heq⟩ | ⟨-, heq⟩ := emitByte_cases b false (countPayloadByte s)
    · exact ⟨_, b, true, hexec.trans heq, hb, rfl⟩
    · exact ⟨_, b, false, hexec.trans heq, hb, rfl⟩
  case enc =>
    have hpos : 0 < s.len.toNat := toNat_pos_of_ne_zero hlen
    obtain ⟨b, hb⟩ := Option.isSome_iff_exists.mp (hwritten 0 (by rwa [messageBytes_absorb hphase]))
    have hexec := exec_enc_inject (j := true) hnone hphase (hpos.trans_le (hbounded.absorbing hphase)) ⟨rfl, hlen⟩
    rw [readBuf_of_read hb] at hexec
    exact ⟨_, b, hexec, hb, Memory.read_write_same _ _ _⟩
  case epoch =>
    obtain ⟨m', hexec', -, hsame⟩ := exec_rebuffer hbounded (sameMessage_epoch hinv epoch) hexec
    rw [hsame rfl] at hexec'
    exact hexec'

end Sys2Proof.Proofs

/-! What a command leaves alone (spec/10_state.md R28), and what a step can do to EMIT and to a complete header
(spec/60_exceptions.md R160, spec/43_packet_codec.md R111). -/

namespace Sys2Proof.Proofs

open Sys2Proof Sys2Proof.Machine

section
variable {i : Instr} {s t : State}

/-- A command that the common checks stop changes `ERR` and the port at most (R158); any other does what its own rule
says. -/
theorem exec_untouched_or_own (h : exec i s = .next t) :
    (t = { s with err := t.err, rsp := t.rsp } ∧ (t.err = s.err ∨ s.err = none)) ∨
    ((s.err = none ∨ runsHalted i = true) ∧ OwnRule i s t) := by
  obtain ⟨-, -, rfl⟩ | ⟨hnone, -, rfl⟩ | ⟨herr, -, hown⟩ := exec_cases h
  · exact .inl ⟨rfl, .inl rfl⟩
  · exact .inl ⟨rfl, .inr hnone⟩
  · exact .inr ⟨herr, hown⟩

/-- Only RST changes the code of a block that is halted (R161). -/
theorem ownRule_keeps_err (herr : s.err = none ∨ runsHalted i = true) (h : OwnRule i s t) (hi : i ≠ .rst) :
    t.err = s.err ∨ s.err = none := by
  obtain hnone | hruns := herr
  · exact .inr hnone
  · cases i with
    | rd r =>
      obtain ⟨g, -, rfl⟩ | ⟨-, hnone, -⟩ := h
      · exact .inl rfl
      · exact .inr hnone
    | rst => exact absurd rfl hi
    | _ => cases hruns

/-- What PUSH can write at all (R121). -/
theorem push_frame {b : Byte} (h : exec (.push b) s = .next t) :
    t = { s with
      crc := t.crc, row := t.row, col := t.col, len := t.len, buf := t.buf, err := t.err, rsp := t.rsp } := by
  obtain ⟨hsame, -⟩ | ⟨-, -, ⟨-, rfl⟩ | ⟨-, rfl⟩⟩ := exec_untouched_or_own h
  · rw [hsame]
  · rfl
  · rfl

theorem push_buffer {b : Byte} (h : exec (.push b) s = .next t) : sameBufferBut s.len.toNat s t := by
  obtain ⟨hsame, -⟩ | ⟨-, -, ⟨-, rfl⟩ | ⟨-, rfl⟩⟩ := exec_untouched_or_own h
  · rw [hsame]; exact fun a _ => readBuf_congr rfl rfl a
  · exact fun a _ => readBuf_faulted _ s a
  · exact fun a ha => readBuf_writeBuf_other s b ha

/-- What ENC can write at all (R122). -/
theorem enc_frame {j : Bool} (h : exec (.enc j) s = .next t) :
    t = { s with
      hdr := t.hdr, buf := t.buf, hpos := t.hpos, ppos := t.ppos, phase := t.phase, injected := t.injected,
      err := t.err, rsp := t.rsp } := by
  obtain ⟨hsame, -⟩ | ⟨-, -, ⟨-, rfl⟩ | ⟨-, rfl⟩⟩ := exec_untouched_or_own h
  · rw [hsame]
  · rfl
  · rfl

theorem enc_buffer {j : Bool} (h : exec (.enc j) s = .next t) :
    sameBufferBut 0 s t ∧ (j = false ∨ s.len = 0 → sameBuffer s t) := by
  obtain ⟨hsame, -⟩ | ⟨-, -, ⟨⟨hj, hlen⟩, rfl⟩ | ⟨-, rfl⟩⟩ := exec_untouched_or_own h
  · rw [hsame]; exact ⟨fun a _ => readBuf_congr rfl rfl a, fun _ a => readBuf_congr rfl rfl a⟩
  · refine ⟨fun a ha => readBuf_writeBuf_other (freezeHeader s) _ ha, ?_⟩
    rintro (hj' | hlen')
    · exact Bool.noConfusion (hj.symm.trans hj')
    · exact absurd hlen' hlen
  · exact ⟨fun a _ => readBuf_freezeHeader s a, fun _ a => readBuf_freezeHeader s a⟩

/-- What POP can write at all (R123). -/
theorem pop_frame (h : exec .pop s = .next t) :
    t = { s with hpos := t.hpos, ppos := t.ppos, phase := t.phase, err := t.err, rsp := t.rsp } := by
  obtain ⟨hsame, -⟩ | ⟨-, hown⟩ := exec_untouched_or_own h
  · rw [hsame]
  · rw [ownRule_pop_same hown]

/-- What RXB can write at all (R131). -/
theorem rxb_frame {b : Byte} (h : exec (.rxb b) s = .next t) :
    t = { s with
      crc := t.crc, row := t.row, col := t.col, len := t.len, hdr := t.hdr, hpos := t.hpos, phase := t.phase,
      vValid := t.vValid, crcBad := t.crcBad, rowBad := t.rowBad, colBad := t.colBad, err := t.err, rsp := t.rsp } := by
  obtain ⟨hsame, -⟩ | ⟨-, hown⟩ := exec_untouched_or_own h
  · rw [hsame]
  · obtain ⟨-, ⟨-, rfl⟩ | ⟨-, -, rfl⟩ | ⟨-, -, rfl⟩⟩ | ⟨-, ⟨-, rfl⟩ | ⟨-, rfl⟩⟩ := hown <;> rfl

/-- What RXE can write at all (R132). -/
theorem rxe_frame (h : exec .rxe s = .next t) :
    t = { s with phase := t.phase, malformed := t.malformed, err := t.err, rsp := t.rsp } := by
  obtain ⟨hsame, -⟩ | ⟨-, -, ⟨-, rfl⟩ | ⟨-, rfl⟩⟩ := exec_untouched_or_own h
  · rw [hsame]
  · rfl
  · rfl

/-- What RD can write at all (R140). -/
theorem rd_frame {r : BitVec 8} (h : exec (.rd r) s = .next t) : t = { s with err := t.err, rsp := t.rsp } := by
  obtain ⟨hsame, -⟩ | ⟨-, ⟨g, -, rfl⟩ | ⟨-, -, rfl⟩⟩ := exec_untouched_or_own h
  · exact hsame
  · rfl
  · rfl

/-- The common initialisation and the soft reset leave the buffer (R120, R141). -/
theorem start_buffer (hi : i = .clr ∨ i = .rxs ∨ i = .rst) (h : exec i s = .next t) : sameBuffer s t := by
  obtain ⟨hsame, -⟩ | ⟨-, hown⟩ := exec_untouched_or_own h
  · rw [hsame]; exact fun a => readBuf_congr rfl rfl a
  · obtain rfl | rfl | rfl := hi <;> obtain rfl := hown <;> exact fun a => readBuf_congr rfl rfl a

/-- No command changes the configuration, the index of the power-on bytes, or the host's inputs (R25, R178). -/
theorem exec_keeps_surroundings (h : exec i s = .next t) :
    t.cfg = s.cfg ∧ t.bufEpoch = s.bufEpoch ∧ t.inputs = s.inputs := by
  cases i with
  | clr | rxs | rst =>
    obtain ⟨hsame, -⟩ | ⟨-, hown⟩ := exec_untouched_or_own h
    · rw [hsame]; exact ⟨rfl, rfl, rfl⟩
    · obtain rfl := hown
      exact ⟨rfl, rfl, rfl⟩
  | push b => rw [push_frame h]; exact ⟨rfl, rfl, rfl⟩
  | enc j => rw [enc_frame h]; exact ⟨rfl, rfl, rfl⟩
  | pop => rw [pop_frame h]; exact ⟨rfl, rfl, rfl⟩
  | rxb b => rw [rxb_frame h]; exact ⟨rfl, rfl, rfl⟩
  | rxe => rw [rxe_frame h]; exact ⟨rfl, rfl, rfl⟩
  | rd r => rw [rd_frame h]; exact ⟨rfl, rfl, rfl⟩

end

/-- Settles O49: each command by what it can write at all, and PUSH and ENC by the one byte of the buffer they write. -/
theorem commandsLeaveDottedStateAlone : Obligations.CommandsLeaveDottedStateAlone := by
  intro i s t h
  have herr : i ≠ .rst → t.err = s.err ∨ s.err = none := by
    obtain ⟨-, herr⟩ | ⟨herr, hown⟩ := exec_untouched_or_own h
    · exact fun _ => herr
    · exact ownRule_keeps_err herr hown
  obtain ⟨hcfg, hepoch, hinputs⟩ := exec_keeps_surroundings h
  refine ⟨hcfg, hepoch, hinputs, herr, ?_⟩
  cases i with
  | clr => exact start_buffer (.inl rfl) h
  | rxs => exact start_buffer (.inr (.inl rfl)) h
  | rst => exact start_buffer (.inr (.inr rfl)) h
  | push b =>
    have hbuf := push_buffer h
    rw [push_frame h] at hbuf ⊢
    exact ⟨rfl, rfl, rfl, rfl, rfl, ⟨rfl, rfl, rfl, rfl⟩, rfl, hbuf⟩
  | enc j =>
    have hbuf := enc_buffer h
    rw [enc_frame h] at hbuf ⊢
    exact ⟨⟨rfl, rfl, rfl, rfl⟩, ⟨rfl, rfl, rfl, rfl⟩, rfl, hbuf⟩
  | pop =>
    rw [pop_frame h]
    exact ⟨⟨rfl, rfl, rfl, rfl⟩, rfl, rfl, ⟨rfl, rfl, rfl, rfl⟩, rfl, fun a => readBuf_congr rfl rfl a⟩
  | rxb b =>
    rw [rxb_frame h]
    exact ⟨rfl, rfl, rfl, fun a => readBuf_congr rfl rfl a⟩
  | rxe =>
    rw [rxe_frame h]
    exact ⟨⟨rfl, rfl, rfl, rfl⟩, rfl, rfl, rfl, rfl, ⟨rfl, rfl, rfl, rfl⟩, fun a => readBuf_congr rfl rfl a⟩
  | rd r =>
    rw [rd_frame h]
    exact ⟨⟨rfl, rfl, rfl, rfl⟩, rfl, rfl, rfl, rfl, rfl, ⟨rfl, rfl, rfl, rfl⟩, rfl, fun a => readBuf_congr rfl rfl a⟩

/-- Settles O53: a hard reset, or a word whose own rule leaves EMIT: POP on the frame's last byte, and RST. -/
theorem emitLeftOnlyByLastByteOrReset : Obligations.EmitLeftOnlyByLastByteOrReset := by
  intro s t hphase hstep hleft
  obtain ⟨-, rfl⟩ | ⟨rest, hin, rfl⟩ | ⟨w, rest, hin, hissue⟩ := step_cases hstep
  · exact absurd hphase hleft
  · exact .inr ⟨rfl, .inr (hin ▸ rfl)⟩
  · obtain ⟨-, rfl⟩ | ⟨-, c, rfl⟩ | ⟨i, rfl, herr, haccepts, hown⟩ := issue_ownRule_cases hissue
    · exact absurd hphase hleft
    · exact absurd hphase hleft
    · have hemit : accepts i .emit = true := hphase ▸ haccepts
      cases i with
      | pop =>
        obtain ⟨hdone, hpos, hppos⟩ | ⟨hstay, -⟩ := ownRule_pop_phase hown
        · refine .inl ⟨hin ▸ rfl, herr.resolve_right Bool.false_ne_true, hdone, hpos, hppos, ?_⟩
          obtain ⟨-, last, ⟨-, rfl, -⟩ | ⟨-, rfl, -⟩⟩ := hown <;> cases last
          · exact Phase.noConfusion hdone
          · exact ⟨_, rfl, popData_last _ _ _⟩
          · exact Phase.noConfusion hdone
          · exact ⟨_, rfl, popData_last _ _ _⟩
        · exact absurd hstay hleft
      | rd r =>
        obtain ⟨g, -, rfl⟩ | ⟨-, -, rfl⟩ := hown <;> exact absurd hphase hleft
      | rst =>
        obtain rfl := hown
        exact .inr ⟨rfl, .inl (hin ▸ rfl)⟩
      | _ => cases hemit

/-- Settles O54: no rule that a complete header's phase accepts writes the header, but for CLR, RXS, RST and the hard
reset, which zero it. -/
theorem headerFixedOnceComplete : Obligations.HeaderFixedOnceComplete := by
  intro s t hphase hstep
  obtain ⟨-, rfl⟩ | ⟨rest, hin, rfl⟩ | ⟨w, rest, hin, hissue⟩ := step_cases hstep
  · exact .inl rfl
  · exact .inr ⟨rfl, .inr (.inr rfl), by simp [hin]⟩
  · obtain ⟨-, rfl⟩ | ⟨-, c, rfl⟩ | ⟨i, rfl, -, -, hown⟩ := issue_ownRule_cases hissue
    · exact .inl rfl
    · exact .inl rfl
    · cases i with
      | clr =>
        obtain rfl := hown
        exact .inr ⟨rfl, .inl rfl, hin ▸ .head _⟩
      | rxs =>
        obtain rfl := hown
        exact .inr ⟨rfl, .inr (.inl rfl), hin ▸ .tail _ (.head _)⟩
      | rst =>
        obtain rfl := hown
        exact .inr ⟨rfl, .inr (.inr rfl), hin ▸ .tail _ (.tail _ (.head _))⟩
      | push b =>
        obtain ⟨-, ⟨-, rfl⟩ | ⟨-, rfl⟩⟩ := hown <;> exact .inl rfl
      | enc j =>
        have habsorb : s.phase = .absorb := hown.1
        simp [habsorb] at hphase
      | pop =>
        obtain ⟨-, last, ⟨-, rfl, -⟩ | ⟨-, rfl, -⟩⟩ := hown <;> exact .inl rfl
      | rxb b =>
        obtain ⟨hhdr, -⟩ | ⟨-, ⟨-, rfl⟩ | ⟨-, rfl⟩⟩ := hown
        · have hhdr : s.phase = .rxhdr := hhdr
          simp [hhdr] at hphase
        · exact .inl rfl
        · exact .inl rfl
      | rxe =>
        obtain ⟨-, ⟨-, rfl⟩ | ⟨-, rfl⟩⟩ := hown <;> exact .inl rfl
      | rd r =>
        obtain ⟨g, -, rfl⟩ | ⟨-, -, rfl⟩ := hown <;> exact .inl rfl

end Sys2Proof.Proofs

/-! Running a command sequence (spec/20_memory.md R51): its responses, command by command and part by part. -/

namespace Sys2Proof.Proofs

open Sys2Proof Sys2Proof.Machine

/-- The sequence runs from `s` to `t` and is answered by `rs`. -/
def Runs (is : List Instr) (s : State) (rs : List Response) (t : State) : Prop :=
  session (wordsOf is) s = some (rs, t)

section
variable {s t u : State} {is js : List Instr} {rs qs : List Response}

theorem Runs.nil (s : State) : Runs [] s [] s := rfl

theorem Runs.cons {i : Instr} {r : Response} (hwf : i.WellFormed = true) (h : exec i s = .next t)
    (hrsp : t.rsp = some r) (hrest : Runs is t rs u) : Runs (i :: is) s (r :: rs) u := by
  have hfirst : issue (encode i) s = .next t := (issue_ok (decode_encode hwf) s).trans h
  exact (session_cons hfirst hrsp).trans (congrArg (Option.map _) hrest)

theorem Runs.single {i : Instr} {r : Response} (hwf : i.WellFormed = true) (h : exec i s = .next t)
    (hrsp : t.rsp = some r) : Runs [i] s [r] t :=
  .cons hwf h hrsp (.nil t)

theorem session_append {ws vs : List CmdWord} (h : session ws s = some (rs, t)) (h' : session vs t = some (qs, u)) :
    session (ws ++ vs) s = some (rs ++ qs, u) := by
  induction ws generalizing s rs with
  | nil => cases h; exact h'
  | cons w ws ih =>
    cases hw : issue w s with
    | next s1 =>
      obtain ⟨r, hrsp⟩ := issue_rsp hw
      rw [session_cons hw hrsp] at h
      obtain ⟨⟨rs1, t1⟩, hs1, hout⟩ := Option.map_eq_some_iff.mp h
      cases hout
      exact (session_cons hw hrsp).trans (congrArg (Option.map _) (ih hs1))
    | fault f => simp [session, hw] at h
    | refused f => simp [session, hw] at h

theorem Runs.append (h : Runs is s rs t) (h' : Runs js t qs u) : Runs (is ++ js) s (rs ++ qs) u := by
  rw [Runs, wordsOf_append]
  exact session_append h h'

end

end Sys2Proof.Proofs

/-! The transmit path as a whole (spec/44_transmit_ops.md R124): CLR, the payload, ENC, and the frame's bytes. -/

namespace Sys2Proof.Proofs

open Sys2Proof Sys2Proof.Machine

/-! ### The message -/

/-- The block holds the message `p` in its engines and in the buffer, of `n` bytes, and nothing has gone wrong. -/
structure Holds (n : Nat) (p : List Byte) (t : State) : Prop where
  err : t.err = none
  phase : t.phase = .absorb
  capacity : t.cfg.bufBytes.toNat = n
  engines : enginesHold t p
  buffer : bufPrefix t p.length = p
  noVerdict : (t.vValid, t.crcBad, t.rowBad, t.colBad, t.malformed) = (false, false, false, false, false)

/-- CLR starts an empty message (R120). -/
theorem runs_clr {s : State} (herr : s.err = none) (hstart : canStart s) :
    ∃ t, Runs [.clr] s [⟨0, 0⟩] t ∧ Holds s.cfg.bufBytes.toNat [] t :=
  ⟨_, .single rfl (exec_clr herr hstart) rfl, herr, rfl, rfl, ⟨rfl, rfl, rfl⟩, rfl, rfl⟩

/-- PUSH adds a byte to a message that leaves room for it (R121). -/
theorem exec_push_holds {n : Nat} {p : List Byte} {t : State} (h : Holds n p t) (b : Byte) (hroom : p.length < n) :
    ∃ u, exec (.push b) t = .next u ∧ u.rsp = some ⟨0, 0⟩ ∧ Holds n (p ++ [b]) u := by
  have hlen : t.len.toNat = p.length := h.engines.1.symm
  have hlt : t.len.toNat < t.cfg.bufBytes.toNat := by rw [hlen, h.capacity]; exact hroom
  refine ⟨_, exec_push_room b h.err h.phase hlt, rfl, by simp [h.err], by simp [h.phase], by simp [h.capacity],
    ?engines, ?buffer, by simpa using h.noVerdict⟩
  case engines => exact enginesHold_absorb (s := writeBuf t t.len.toNat b) h.engines b (toNat_add_one_of_lt hlt)
  case buffer =>
    rw [List.length_append, List.length_singleton, hlen]
    exact (bufPrefix_writeBuf_succ t p.length b).trans (congrArg (· ++ [b]) h.buffer)

theorem length_pushAll (q : List Byte) : (pushAll q).length = q.length := List.length_map _

/-- PUSHes of a sequence add it to the message (R73). -/
theorem runs_pushAll {n : Nat} {p : List Byte} {t : State} (h : Holds n p t) (q : List Byte)
    (hroom : p.length + q.length ≤ n) :
    ∃ u, Runs (pushAll q) t (List.replicate q.length ⟨0, 0⟩) u ∧ Holds n (p ++ q) u := by
  induction q generalizing p t with
  | nil => exact ⟨t, .nil t, by rwa [List.append_nil]⟩
  | cons b q ih =>
    rw [List.length_cons] at hroom
    obtain ⟨t1, hexec, hrsp, h1⟩ := exec_push_holds h b (by omega)
    obtain ⟨u, hruns, hu⟩ := ih h1 (by rw [List.length_append, List.length_singleton]; omega)
    exact ⟨u, .cons rfl hexec hrsp hruns, by rwa [List.append_assoc] at hu⟩

/-- CLR and the PUSHes of a payload that fits. -/
theorem runs_message {s : State} (herr : s.err = none) (hstart : canStart s) {p : List Byte}
    (hfits : p.length ≤ s.cfg.bufBytes.toNat) :
    ∃ t, Runs (.clr :: pushAll p) s (List.replicate (p.length + 1) ⟨0, 0⟩) t ∧ Holds s.cfg.bufBytes.toNat p t := by
  obtain ⟨t, hclr, ht⟩ := runs_clr herr hstart
  obtain ⟨u, hpush, hu⟩ := runs_pushAll ht p ((Nat.zero_add _).trans_le hfits)
  exact ⟨u, hclr.append hpush, hu⟩

/-- RD of a register in a message reads it and keeps the message (R140). -/
theorem runs_rd {n : Nat} {p : List Byte} {t : State} (h : Holds n p t) (g : Reg) :
    ∃ u, Runs [.rd (regNumber g)] t [⟨0, regValue t g⟩] u ∧ Holds n p u ∧ u.col = t.col :=
  ⟨_, .single (by cases g <;> rfl) (exec_rd_regNumber g t) rfl,
    ⟨h.err, h.phase, h.capacity, h.engines, h.buffer, h.noVerdict⟩, rfl⟩

/-- Settles O24: the message, then the registers that hold its checksum and its parities. -/
theorem checksumAndParityReadouts : Obligations.ChecksumAndParityReadouts := by
  intro p s herr hstart hfits
  obtain ⟨t, hmessage, ht⟩ := runs_message herr hstart hfits
  obtain ⟨-, hcrc, hpar⟩ := ht.engines
  have hrow : t.row = (compute2DParity p).1 := congrArg Prod.fst hpar
  have hcol : colLow t.col = (compute2DParity p).2 := congrArg colLow (congrArg Prod.snd hpar)
  have hout : regValue t .crcOut = computeCRC32 p := congrArg crcOut hcrc
  constructor
  · obtain ⟨u, hread, hu, -⟩ := runs_rd ht .crcOut
    rw [hout] at hread
    exact ⟨u, hmessage.append hread, hu.phase⟩
  · obtain ⟨u, hread, hu, hucol⟩ := runs_rd ht .row
    obtain ⟨v, hread', hv, -⟩ := runs_rd hu .colLo
    rw [regValue, hrow] at hread
    rw [regValue, hucol, hcol] at hread'
    exact ⟨v, hmessage.append (hread.append hread'), hv.phase⟩

/-! ### A payload that does not fit -/

/-- A halted block answers Halted to every command that it does not serve, and keeps its state (R155). -/
theorem runs_halted {t : State} (herr : t.err ≠ none) (is : List Instr)
    (his : ∀ i ∈ is, i.WellFormed = true ∧ runsHalted i = false) :
    ∃ u, Runs is t (List.replicate is.length ⟨4, 0⟩) u ∧ u = { t with rsp := u.rsp } := by
  induction is generalizing t with
  | nil => exact ⟨t, .nil t, rfl⟩
  | cons i is ih =>
    obtain ⟨⟨hwf, hruns⟩, hrest⟩ := List.forall_mem_cons.mp his
    obtain ⟨u, h, hu⟩ := ih (t := answer 4 0 t) herr hrest
    exact ⟨u, .cons hwf (exec_halted herr hruns) rfl h, hu⟩

/-- Settles O23: the bytes that fit, the PUSH that does not, and Halted from there on. -/
theorem overlongPayloadFaultsBufferFull : Obligations.OverlongPayloadFaultsBufferFull := by
  intro p j s herr hstart hlong
  obtain ⟨b, q, hsplit⟩ : ∃ b q, p.drop s.cfg.bufBytes.toNat = b :: q :=
    List.exists_cons_of_length_pos (by rw [List.length_drop]; omega)
  have htake : (p.take s.cfg.bufBytes.toNat).length = s.cfg.bufBytes.toNat := List.length_take_of_le hlong.le
  have hcount : q.length + 1 = p.length - s.cfg.bufBytes.toNat := by
    rw [← List.length_drop, hsplit, List.length_cons]
  obtain ⟨t, hmessage, ht⟩ := runs_message herr hstart htake.le
  have hfull : t.len = t.cfg.bufBytes :=
    BitVec.eq_of_toNat_eq (by rw [← ht.engines.1, htake, ht.capacity])
  have hpush : Runs [.push b] t [⟨3, 0⟩] (faulted .bufferFull t) :=
    .single rfl (exec_push_full b ht.err ht.phase hfull) rfl
  have hignored : ∀ i ∈ pushAll q ++ [Instr.enc j], i.WellFormed = true ∧ runsHalted i = false := by
    simp [pushAll, or_imp, forall_and, Instr.WellFormed, runsHalted]
  obtain ⟨u, hhalted, hu⟩ := runs_halted (t := faulted .bufferFull t) nofun _ hignored
  obtain ⟨-, hcrc, -⟩ := ht.engines
  refine ⟨u, ?runs, by rw [hu, faulted_err], by rw [hu, faulted_phase, ht.phase], ?len,
    by rw [hu, faulted_crc, hcrc]; rfl⟩
  case len =>
    rw [hu, faulted_len, hfull]
    exact BitVec.eq_of_toNat_eq ht.capacity
  case runs =>
    have hcommands : Instr.clr :: pushAll p ++ [Instr.enc j] =
        Instr.clr :: pushAll (p.take s.cfg.bufBytes.toNat) ++ ([Instr.push b] ++ (pushAll q ++ [Instr.enc j])) := by
      conv_lhs => rw [← List.take_append_drop s.cfg.bufBytes.toNat p, hsplit]
      simp [pushAll]
    have hruns := hmessage.append (hpush.append hhalted)
    rw [← hcommands, htake, List.length_append, length_pushAll, List.length_singleton, hcount,
      Nat.add_comm _ 1, List.singleton_append] at hruns
    exact hruns

/-! ### The frame -/

/-- The block has sent `k` bytes of the frame of `encode(p, j)`. -/
structure Sends (p : List Byte) (j : Bool) (k : Nat) (t : State) : Prop where
  err : t.err = none
  phase : t.phase = if k = 16 + p.length then .done else .emit
  fits : p.length ≤ t.cfg.bufBytes.toNat
  engines : enginesHold t p
  header : t.hdr = headerOf p
  payload : bufPrefix t p.length = transmitted p j
  injected : t.injected = injects p j
  counts : EmitCounts t
  offset : frameOffset t = k
  noVerdict : (t.vValid, t.crcBad, t.rowBad, t.colBad, t.malformed) = (false, false, false, false, false)

/-- The header's length is that of the payload. -/
theorem Sends.dataLen {p : List Byte} {j : Bool} {k : Nat} {t : State} (h : Sends p j k t) :
    t.hdr.dataLen.toNat = p.length := by
  rw [h.header, headerOf_dataLen_toNat (h.fits.trans_lt t.cfg.bufBytes.isLt)]

/-- ENC begins to send the message's frame: it leaves the engines and the flags alone (R122). -/
theorem sends_of_enc {n : Nat} {p : List Byte} {t u : State} {j : Bool} (h : Holds n p t) (hfits : p.length ≤ n)
    (hexec : exec (.enc j) t = .next u) (herr : u.err = none) (hphase : u.phase = .emit) (hhpos : u.hpos = 0)
    (hppos : u.ppos = 0) (hhdr : u.hdr = (freezeHeader t).hdr) (hpayload : bufPrefix u p.length = transmitted p j)
    (hinjected : u.injected = injects p j) : Sends p j 0 u := by
  refine ⟨herr, hphase.trans (if_neg (by omega)).symm, ?fits, ?engines,
    hhdr.trans (freezeHeader_hdr_of_enginesHold h.engines), hpayload, hinjected, (emitCounts_of_zero hhpos hppos).1,
    ?offset, ?noVerdict⟩
  case offset => rw [frameOffset, hhpos, hppos]; rfl
  all_goals rw [enc_frame hexec]
  case fits => exact hfits.trans_eq h.capacity.symm
  case engines => exact h.engines
  case noVerdict => exact h.noVerdict

/-- ENC freezes the message's header and injects on request (R122). -/
theorem exec_enc_holds {n : Nat} {p : List Byte} {t : State} (h : Holds n p t) (hfits : p.length ≤ n) (j : Bool) :
    ∃ u, exec (.enc j) t = .next u ∧ u.rsp = some ⟨0, 0⟩ ∧ Sends p j 0 u := by
  have hne : t.len ≠ 0 ↔ 0 < p.length := by
    rw [h.engines.1, Nat.pos_iff_ne_zero, ne_eq, ← BitVec.toNat_inj]
    rfl
  cases hinj : injects p j with
  | true =>
    obtain ⟨rfl, hpos⟩ := (Bool.and_eq_true _ _).mp hinj
    have hpos := of_decide_eq_true hpos
    have hexec := exec_enc_inject h.err h.phase (h.capacity ▸ hpos.trans_le hfits) ⟨rfl, hne.mpr hpos⟩
    refine ⟨_, hexec, rfl, sends_of_enc h hfits hexec (by simp [h.err]) rfl rfl rfl (by simp) ?_ hinj.symm⟩
    exact (bufPrefix_writeBuf_inject (freezeHeader t) p.length).trans (congrArg inject h.buffer)
  | false =>
    have hplain : ¬(j = true ∧ t.len ≠ 0) := fun ⟨hj, hlen⟩ => by simp [injects, hj, hne.mp hlen] at hinj
    have hexec := exec_enc_plain h.err h.phase hplain
    exact ⟨_, hexec, rfl, sends_of_enc h hfits hexec (by simp [h.err]) rfl rfl rfl (by simp)
      (h.buffer.trans (transmitted_of_not_injects hinj).symm) hinj.symm⟩

/-- The response to the POP of the byte `b` at offset `k` of a frame with `n` payload bytes (R67, R123). -/
def popResponse (n k : Nat) (b : Byte) : Response := ⟨0, popData b (k + 1 == 16 + n) (decide (k < 16))⟩

/-- POP sends the next byte of the frame (R123). -/
theorem exec_pop_sends {p : List Byte} {j : Bool} {k : Nat} {t : State} (h : Sends p j k t) (hk : k < 16 + p.length) :
    ∃ u b, exec .pop t = .next u ∧ (frame (headerOf p) (transmitted p j))[k]? = some b ∧
      u.rsp = some (popResponse p.length k b) ∧ Sends p j (k + 1) u := by
  have hemit : t.phase = .emit := h.phase.trans (if_neg hk.ne)
  have hleft : ¬ frameSent t := by
    rw [frameSent_iff_offset h.counts, h.offset, h.dataLen]
    exact hk.ne
  have hb : Bounded t := bounded_of_emit hemit (h.dataLen.trans_le h.fits) h.counts hleft
  obtain ⟨u, hexec⟩ := exec_goes .pop hb
  have hown := ownRule_of_ready (ready_pop h.err hemit) hexec
  obtain ⟨hhdr, hoffset, hcu⟩ := ownRule_pop_counts h.counts hleft hown
  have hsame := ownRule_pop_same hown
  have hnext : frameOffset u = k + 1 := hoffset.trans (congrArg (· + 1) h.offset)
  have hlen : u.hdr.dataLen.toNat = p.length := (congrArg (fun x : Header => x.dataLen.toNat) hhdr).trans h.dataLen
  obtain ⟨b, hbyte, hrsp⟩ := ownRule_pop_answer h.counts hleft hown
  rw [h.dataLen, h.payload, h.header, h.offset] at hbyte
  rw [hnext, hlen, h.offset] at hrsp
  refine ⟨u, b, hexec, hbyte, hrsp, ?err, ?phase, ?fits, ?engines, hhdr.trans h.header, ?payload, ?injected, hcu, hnext,
    ?noVerdict⟩
  case phase =>
    obtain ⟨hdone, hsent⟩ | ⟨hstay, hmore⟩ := ownRule_pop_phase hown
    · rw [hdone, if_pos (by rwa [frameSent_iff_offset hcu, hnext, hlen] at hsent)]
    · rw [hstay, if_neg (by rwa [frameSent_iff_offset hcu, hnext, hlen] at hmore)]
  all_goals rw [hsame]
  case err => exact h.err
  case fits => exact h.fits
  case engines => exact h.engines
  case payload => exact h.payload
  case injected => exact h.injected
  case noVerdict => exact h.noVerdict

/-- POPs send the frame from its start. -/
theorem runs_popAll {p : List Byte} {j : Bool} {t : State} (h : Sends p j 0 t) (k : Nat) (hk : k ≤ 16 + p.length) :
    ∃ u, Runs (popAll k) t (((frame (headerOf p) (transmitted p j)).take k).mapIdx (popResponse p.length)) u ∧
      Sends p j k u := by
  induction k with
  | zero => exact ⟨t, .nil t, h⟩
  | succ k ih =>
    obtain ⟨t1, hruns, h1⟩ := ih (by omega)
    obtain ⟨u, b, hexec, hbyte, hrsp, hu⟩ := exec_pop_sends h1 hk
    refine ⟨u, ?_, hu⟩
    have hlen : ((frame (headerOf p) (transmitted p j)).take k).length = k := by
      rw [List.length_take_of_le]
      rw [frame_length, transmitted_length]
      omega
    rw [popAll, List.replicate_succ', List.take_add_one, hbyte, Option.toList_some, List.mapIdx_concat, hlen]
    exact hruns.append (.single rfl hexec hrsp)

/-- Settles O22: the message, ENC, and POPs up to the end of the frame. -/
theorem transmitPathSendsEncodedFrame : Obligations.TransmitPathSendsEncodedFrame := by
  intro p j s herr hstart hfits
  have hp : p.length < 2 ^ 32 := hfits.trans_lt s.cfg.bufBytes.isLt
  obtain ⟨t, hmessage, ht⟩ := runs_message herr hstart hfits
  obtain ⟨t1, henc, hrsp, h1⟩ := exec_enc_holds ht hfits j
  obtain ⟨u, hpops, hu⟩ := runs_popAll h1 (16 + p.length) le_rfl
  have hall : (frame (headerOf p) (transmitted p j)).take (16 + p.length) = frame (headerOf p) (transmitted p j) :=
    List.take_of_length_le (by rw [frame_length, transmitted_length])
  have hruns := (hmessage.append (.single rfl henc hrsp)).append hpops
  rw [← List.replicate_succ', hall] at hruns
  have hcommands : encodeCommands p j = (Instr.clr :: pushAll p ++ [Instr.enc j]) ++ popAll (16 + p.length) := by
    simp [encodeCommands]
  obtain ⟨hpos, hppos⟩ : u.hpos.toNat = 16 ∧ u.ppos.toNat = u.hdr.dataLen.toNat :=
    frameSent_iff_toNat.mp ((frameSent_iff_offset hu.counts).mpr (by rw [hu.offset, hu.dataLen]))
  obtain ⟨hlen, hcrc, hpar⟩ := hu.engines
  refine ⟨headerOf p, transmitted p j, u, encodePacket_of_lt hp j, ?_, hu.phase.trans (if_pos rfl), hu.err, hu.header,
    hu.payload, hlen.symm, hpos_eq_16.mpr hpos, hppos.trans hu.dataLen, hu.injected, hcrc, hpar, hu.noVerdict⟩
  rw [hcommands]
  exact hruns

end Sys2Proof.Proofs

/-! The receive path as a whole (spec/45_receive_ops.md R134): RXS and one RXB per byte classify the bytes so far. -/

namespace Sys2Proof.Proofs

open Sys2Proof Sys2Proof.Machine

/-! ### The bytes received so far -/

/-- The bytes `w` of a frame have gone to their places: the first 16 to the header, the others to the engines (R131). -/
structure BytesIn (w : List Byte) (t : State) : Prop where
  err : t.err = none
  count : t.hpos.toNat = min w.length 16
  header : ∀ k < 16, k < w.length → w[k]? = some (hdrByte t.hdr k)
  engines : enginesHold t (w.drop 16)
  within : 16 ≤ w.length → w.length ≤ 16 + t.hdr.dataLen.toNat

/-- The phase of a reception after the bytes `w` (R131). -/
def phaseAfter (w : List Byte) (t : State) : Phase := if w.length < 16 then .rxhdr else phaseAfterPayloadByte t

/-- The bytes `w` were received, and with the last byte of a frame its verdict was given (R131, R133). -/
structure Received (w : List Byte) (t : State) : Prop extends BytesIn w t where
  phase : t.phase = phaseAfter w t
  verdict : t.phase = .done → t.vValid = true ∧ ⟨t.crcBad, t.rowBad, t.colBad⟩ = verify t.hdr (w.drop 16)

section
variable {w : List Byte} {t u : State} {b : Byte}

theorem BytesIn.startsWith (h : BytesIn w t) (hlen : 16 ≤ w.length) : StartsWith t.hdr w :=
  ⟨hlen, fun k hk => h.header k hk (hk.trans_le hlen)⟩

/-- `LEN` counts the payload bytes. -/
theorem BytesIn.len_eq_iff (h : BytesIn w t) (hlen : 16 ≤ w.length) :
    t.len = t.hdr.dataLen ↔ ¬ w.length < 16 + t.hdr.dataLen.toNat := by
  have hcount : w.length - 16 = t.len.toNat := List.length_drop.symm.trans h.engines.1
  have hwithin := h.within hlen
  rw [← BitVec.toNat_inj]
  omega

/-- Once the header is there, the bytes are a frame without a verdict yet, or with one (R114). -/
theorem BytesIn.classify_eq (h : BytesIn w t) :
    classify w false = if phaseAfter w t = .done then verdictOf (verify t.hdr (w.drop 16)) else .more := by
  rw [phaseAfter]
  by_cases hshort : w.length < 16
  · rw [classify_short hshort, if_pos hshort]
    rfl
  · have hlen : 16 ≤ w.length := Nat.le_of_not_lt hshort
    have hdone : phaseAfterPayloadByte t = .done ↔ ¬ w.length < 16 + t.hdr.dataLen.toNat :=
      (phaseAfterPayloadByte_eq_done_iff t).trans (h.len_eq_iff hlen)
    rw [classify_of_startsWith (h.startsWith hlen), if_neg hshort]
    by_cases hmore : w.length < 16 + t.hdr.dataLen.toNat
    · rw [if_pos hmore, if_neg (mt hdone.mp (not_not.mpr hmore))]
      rfl
    · rw [if_neg hmore, if_pos (hdone.mpr hmore), List.take_of_length_le]
      rw [List.length_drop]
      exact Nat.sub_le_iff_le_add'.mpr (h.within hlen)

/-- The comparisons of engines that hold `q` are those of `verify` (R112, R133). -/
theorem compareHeader_of_enginesHold {q : List Byte} (h : enginesHold t q) : compareHeader t = verify t.hdr q := by
  obtain ⟨-, hcrc, hpar⟩ := h
  have hrow : t.row = (compute2DParity q).1 := congrArg Prod.fst hpar
  have hcol : colLow t.col = (compute2DParity q).2 := congrArg colLow (congrArg Prod.snd hpar)
  have hout : crcOut t.crc = computeCRC32 q := congrArg crcOut hcrc
  rw [compareHeader, verify, hout, hrow, hcol]

/-- The flags and the answer of a verdict are the comparisons' (R133). -/
theorem verdictGiven_flags (h : verdictGiven t) :
    ⟨t.crcBad, t.rowBad, t.colBad⟩ = compareHeader t ∧
      t.rsp = some ⟨0, verdictCode (verdictOf (compareHeader t))⟩ := by
  obtain ⟨-, hcrc, hrow, hcol, hrsp⟩ := h
  have hflags : ⟨t.crcBad, t.rowBad, t.colBad⟩ = compareHeader t := by
    rw [compareHeader, Mismatch.mk.injEq]
    refine ⟨?_, ?_, ?_⟩ <;> rw [Bool.eq_iff_iff, bne_iff_ne]
    · rw [hcrc, crcOut_eq_xor]
    · exact hrow
    · rw [hcol, colLow_eq_append]
  refine ⟨hflags, ?_⟩
  rw [hrsp, ← hflags, verdictCode_verdictOf]

/-- Once a byte is in its place, what RXB does next leaves a reception that is answered by `classify` (R131, R133). -/
theorem received_of_byteReceived (h : BytesIn w u) (hbyte : ByteReceived (phaseAfter w u) u t) :
    Received w t ∧ t.rsp = some ⟨0, verdictCode (classify w false)⟩ := by
  have hhdr := hbyte.hdr_eq
  have hsame := hbyte.sameEngines
  have hin : BytesIn w t := by
    rw [hbyte.frame]
    exact ⟨h.err, h.count, h.header, h.engines, h.within⟩
  have hphase : phaseAfter w t = phaseAfter w u := by
    obtain ⟨-, -, -, hlen⟩ := hsame
    rw [phaseAfter, phaseAfter, phaseAfterPayloadByte, phaseAfterPayloadByte, hlen, hhdr]
  have hcompare := compareHeader_of_enginesHold hin.engines
  have htphase : t.phase = phaseAfter w t := hbyte.phase_eq.trans hphase.symm
  refine ⟨⟨hin, htphase, fun hdone => ?_⟩, ?_⟩
  · have hgiven := hbyte.verdict (hphase ▸ htphase ▸ hdone)
    exact ⟨hgiven.1, (verdictGiven_flags hgiven).1.trans hcompare⟩
  · rw [hin.classify_eq]
    by_cases hdone : phaseAfter w t = .done
    · rw [if_pos hdone, ← hcompare]
      exact (verdictGiven_flags (hbyte.verdict (hphase ▸ hdone))).2
    · rw [if_neg hdone]
      exact (hbyte.more (hphase ▸ hdone)).1

/-! ### One byte more -/

/-- A header byte in its place (R131). -/
theorem bytesIn_placeHeaderByte (h : BytesIn w t) (hshort : w.length < 16) :
    BytesIn (w ++ [b]) (placeHeaderByte b t) := by
  have hpos : t.hpos.toNat = w.length := h.count.trans (Nat.min_eq_left hshort.le)
  have hcount : (placeHeaderByte b t).hpos.toNat = w.length + 1 :=
    (hpos_succ (hpos.trans_lt hshort)).trans (congrArg (· + 1) hpos)
  have hdrop : ∀ v : List Byte, v.length ≤ 16 → v.drop 16 = [] := fun v hv => List.drop_eq_nil_of_le hv
  have hlen : (w ++ [b]).length = w.length + 1 := by rw [List.length_append, List.length_singleton]
  refine ⟨h.err, ?count, fun k hk hkw => ?header, ?engines, fun h16 => ?within⟩
  case count => rw [hcount, hlen, Nat.min_eq_left hshort]
  case header =>
    rw [placeHeaderByte_hdr, hdrByte_setHdrByte _ _ (hpos.trans_lt hshort) hk, hpos]
    obtain hlt | rfl := Nat.lt_succ_iff_lt_or_eq.mp (hkw.trans_eq hlen)
    · rw [List.getElem?_append_left hlt, if_neg hlt.ne, h.header k hk hlt]
    · rw [List.getElem?_concat_length, if_pos rfl]
  case engines =>
    rw [hdrop _ (hlen.trans_le hshort)]
    exact hdrop w hshort.le ▸ h.engines
  case within => omega

/-- A payload byte in the engines (R131). -/
theorem bytesIn_absorb (h : BytesIn w t) (hlen : 16 ≤ w.length) (hmore : w.length < 16 + t.hdr.dataLen.toNat) :
    BytesIn (w ++ [b]) (absorb b t) := by
  have hcount : w.length - 16 = t.len.toNat := List.length_drop.symm.trans h.engines.1
  have hlt : t.len.toNat < t.hdr.dataLen.toNat := by omega
  have hlen' : (w ++ [b]).length = w.length + 1 := by rw [List.length_append, List.length_singleton]
  refine ⟨h.err, ?count, fun k hk _ => ?header, ?engines, fun _ => ?within⟩
  case count => rw [hlen', absorb_hpos, h.count]; omega
  case header =>
    have hkw : k < w.length := hk.trans_le hlen
    rw [List.getElem?_append_left hkw]
    exact h.header k hk hkw
  case engines =>
    rw [List.drop_append_of_le_length hlen]
    exact enginesHold_absorb h.engines b (toNat_add_one_of_lt hlt)
  case within => rw [hlen', absorb_hdr]; omega

/-- RXB of one more byte while the frame is not complete (R134). -/
theorem exec_rxb_received (h : Received w t) (hmore : t.phase ≠ .done) (b : Byte) :
    ∃ u, exec (.rxb b) t = .next u ∧ Received (w ++ [b]) u ∧
      u.rsp = some ⟨0, verdictCode (classify (w ++ [b]) false)⟩ := by
  have hphase := h.phase
  have hlen : (w ++ [b]).length = w.length + 1 := by rw [List.length_append, List.length_singleton]
  rw [phaseAfter] at hphase
  by_cases hshort : w.length < 16
  · rw [if_pos hshort] at hphase
    have hpos : t.hpos.toNat < 16 := by rw [h.count, Nat.min_eq_left hshort.le]; exact hshort
    have hin : BytesIn (w ++ [b]) (placeHeaderByte b t) := bytesIn_placeHeaderByte h.toBytesIn hshort
    obtain ⟨u, hnext, hbyte⟩ := afterHeaderByte_next (u := placeHeaderByte b t) hphase
    have hpu : phaseAfterHeaderByte (placeHeaderByte b t) = phaseAfter (w ++ [b]) (placeHeaderByte b t) := by
      have hzero : (placeHeaderByte b t).len = 0 := by
        apply BitVec.eq_of_toNat_eq
        rw [← hin.engines.1, List.length_drop, hlen]
        exact Nat.sub_eq_zero_of_le hshort
      have hcount : (placeHeaderByte b t).hpos.toNat < 16 ↔ (w ++ [b]).length < 16 := by
        rw [hin.count]
        omega
      rw [phaseAfterHeaderByte, phaseAfter, phaseAfterPayloadByte, hzero]
      simp only [hcount, eq_comm (a := (0 : Word))]
    exact ⟨u, (exec_rxb_header b h.err hphase hpos).trans hnext, received_of_byteReceived hin (hpu ▸ hbyte)⟩
  · rw [if_neg hshort] at hphase
    have h16 : 16 ≤ w.length := Nat.le_of_not_lt hshort
    have hleft : t.len ≠ t.hdr.dataLen := fun hfull =>
      hmore (hphase.trans ((phaseAfterPayloadByte_eq_done_iff t).mpr hfull))
    have hpay : t.phase = .rxpay := hphase.trans (if_neg hleft)
    have hin : BytesIn (w ++ [b]) (absorb b t) :=
      bytesIn_absorb h.toBytesIn h16 (not_not.mp fun hfull => hleft ((h.len_eq_iff h16).mpr hfull))
    obtain ⟨u, hnext, hbyte⟩ := receivePayloadByte_next b hpay
    have hpu : phaseAfterPayloadByte (absorb b t) = phaseAfter (w ++ [b]) (absorb b t) :=
      (if_neg (by omega)).symm
    exact ⟨u, (exec_rxb_payload b h.err hpay).trans hnext, received_of_byteReceived hin (hpu ▸ hbyte)⟩

/-- A reception is complete exactly when `classify` has a verdict (R134). -/
theorem Received.done_iff (h : Received w t) : t.phase = .done ↔ classify w false ≠ .more := by
  rw [h.classify_eq, ← h.phase]
  split
  · next hdone =>
    obtain ⟨hv, -⟩ | ⟨hv, -⟩ := verdictOf_cases (verify t.hdr (w.drop 16)) <;> rw [hv] <;> exact iff_of_true hdone nofun
  · next hnot => exact iff_of_false hnot (not_not.mpr rfl)

end

/-! ### The whole sequence -/

/-- The answers to the RXBs of a sequence (R134). -/
def receiveAnswer (w : List Byte) (i : Nat) : Response := ⟨0, verdictCode (classify (w.take (i + 1)) false)⟩

/-- RXBs of a sequence that no byte completes before the last. -/
theorem runs_receiveAll {w : List Byte} {t : State} (h : Received [] t)
    (hmore : ∀ k < w.length, classify (w.take k) false = .more) (k : Nat) (hk : k ≤ w.length) :
    ∃ u, Runs (receiveAll (w.take k)) t ((List.range k).map (receiveAnswer w)) u ∧ Received (w.take k) u := by
  induction k with
  | zero => exact ⟨t, .nil t, h⟩
  | succ k ih =>
    obtain ⟨t1, hruns, h1⟩ := ih (Nat.le_of_succ_le hk)
    have hleft : t1.phase ≠ .done := fun hdone => h1.done_iff.mp hdone (hmore k hk)
    obtain ⟨u, hexec, hu, hrsp⟩ := exec_rxb_received h1 hleft w[k]
    have htake : w.take (k + 1) = w.take k ++ [w[k]] := (List.take_append_getElem hk).symm
    refine ⟨u, ?_, htake ▸ hu⟩
    rw [← htake] at hrsp
    rw [htake, receiveAll, List.map_append, List.range_succ, List.map_append]
    exact hruns.append (.single rfl hexec hrsp)

/-- RXS starts a reception (R130). -/
theorem received_nil {s : State} (herr : s.err = none) : Received [] (answer 0 0 (enter .rxhdr (start s))) where
  err := herr
  count := rfl
  header _ _ hk := absurd hk (Nat.not_lt_zero _)
  engines := ⟨rfl, rfl, rfl⟩
  within h := absurd h (by decide)
  phase := rfl
  verdict := nofun

/-- 16 bytes or more are the header that they parse to, and a rest (R107). -/
theorem startsWith_hdrParse {w : List Byte} (h : 16 ≤ w.length) : StartsWith (hdrParse (headerPart w h)) w := by
  refine ⟨h, fun k hk => ?_⟩
  rw [hdrByte_hdrParse _ k hk, headerPart, Vector.getElem_ofFn]
  exact List.getElem?_eq_getElem (hk.trans_le h)

/-- No proper beginning of at most one frame has a verdict (R114). -/
theorem classify_take_more {w : List Byte}
    (hw : ∀ h : 16 ≤ w.length, w.length ≤ 16 + (hdrParse (headerPart w h)).dataLen.toNat) {k : Nat}
    (hk : k < w.length) :
    classify (w.take k) false = .more := by
  have hlen : (w.take k).length = k := List.length_take_of_le hk.le
  by_cases hshort : k < 16
  · exact classify_short (hlen.trans_lt hshort) false
  · have h16 : 16 ≤ w.length := by omega
    have hwithin := hw h16
    have hstart : StartsWith (hdrParse (headerPart w h16)) (w.take k) := by
      refine ⟨by omega, fun n hn => ?_⟩
      rw [List.getElem?_take_of_lt (by omega)]
      exact (startsWith_hdrParse h16).2 n hn
    rw [classify_of_startsWith hstart, if_pos (by omega)]
    rfl

/-- RXS and the RXBs of at most one frame. -/
theorem runs_receive {w : List Byte} {s : State} (herr : s.err = none) (hstart : canStart s)
    (hw : ∀ h : 16 ≤ w.length, w.length ≤ 16 + (hdrParse (headerPart w h)).dataLen.toNat) :
    ∃ t, Runs (receiveCommands w) s (⟨0, 0⟩ :: (List.range w.length).map (receiveAnswer w)) t ∧ Received w t := by
  obtain ⟨t, hruns, ht⟩ := runs_receiveAll (received_nil herr) (fun k hk => classify_take_more hw hk) w.length le_rfl
  rw [List.take_length] at hruns ht
  exact ⟨t, .cons rfl (exec_rxs herr hstart) rfl hruns, ht⟩

/-- What a closed stream makes of bytes that are no frame yet (R114). -/
theorem classify_closed {w : List Byte} (h : classify w false = .more) :
    classify w true = if w.length = 0 then .streamClosed else .malformedFrame := by
  by_cases hshort : w.length < 16
  · exact classify_short hshort true
  · have h16 : 16 ≤ w.length := Nat.le_of_not_lt hshort
    rw [classify_of_startsWith (startsWith_hdrParse h16)] at h ⊢
    split at h
    · next hlt => rw [if_pos hlt, if_pos rfl, if_neg (by omega)]
    · obtain ⟨hv, -⟩ | ⟨hv, -⟩ := verdictOf_cases (verify (hdrParse (headerPart w h16))
        ((w.drop 16).take (hdrParse (headerPart w h16)).dataLen.toNat)) <;> exact nomatch hv.symm.trans h

/-- RXE while the frame is incomplete (R132, R134). -/
theorem exec_rxe_received {w : List Byte} {t : State} (h : Received w t) (hmore : classify w false = .more) :
    ∃ u, exec .rxe t = .next u ∧ u.rsp = some ⟨0, verdictCode (classify w true)⟩ := by
  have hpos : t.hpos = 0 ↔ w.length = 0 := by
    rw [← BitVec.toNat_inj, h.count]
    change min w.length 16 = 0 ↔ w.length = 0
    omega
  rw [classify_closed hmore]
  by_cases hzero : w.length = 0
  · have hphase : t.phase = .rxhdr := h.phase.trans (if_pos (by omega))
    rw [if_pos hzero]
    exact ⟨_, exec_rxe_closed h.err hphase (hpos.mpr hzero), rfl⟩
  · have hphase : t.phase = .rxhdr ∨ t.phase = .rxpay := by
      have hnot := mt h.done_iff.mp (not_not.mpr hmore)
      have hcases := h.phase
      rw [phaseAfter, phaseAfterPayloadByte] at hcases
      split_ifs at hcases
      · exact .inl hcases
      · exact absurd hcases hnot
      · exact .inr hcases
    rw [if_neg hzero]
    exact ⟨_, exec_rxe_malformed h.err hphase fun hclosed => hzero (hpos.mp hclosed.2), rfl⟩

/-- Settles O29: the reception's answers, and RXE's while it is incomplete. -/
theorem receivePathClassifiesFrame : Obligations.ReceivePathClassifiesFrame := by
  intro w s herr hstart hw
  obtain ⟨t, hruns, ht⟩ := runs_receive herr hstart hw
  exact ⟨t, hruns, ht.err, exec_rxe_received ht⟩

/-- Settles O30: the reception of an `encode`d frame is complete, with the verdict and the flags of its comparisons. -/
theorem loopbackVerdict : Obligations.LoopbackVerdict := by
  intro p j h q s henc herr hstart
  obtain ⟨hverify, hclassify⟩ := detectionContract p j h q henc
  obtain ⟨hp, rfl, rfl⟩ := encodePacket_eq_some henc
  have hlen : (frame (headerOf p) (transmitted p j)).length = 16 + p.length := by
    rw [frame_length, transmitted_length]
  obtain ⟨t, hruns, ht⟩ := runs_receive (w := frame (headerOf p) (transmitted p j)) herr hstart fun h16 => by
    rw [hdrParse_headerPart (startsWith_frame _ _), headerOf_dataLen_toNat hp, hlen]
  have hdone : t.phase = .done := by
    rw [ht.done_iff, hclassify]
    split <;> nofun
  have hhdr : t.hdr = headerOf p :=
    (hdrParse_headerPart (ht.startsWith (by omega))).symm.trans (hdrParse_headerPart (startsWith_frame _ _))
  obtain ⟨hvalid, hflags⟩ := ht.verdict hdone
  rw [hhdr, drop_frame, hverify, Mismatch.mk.injEq] at hflags
  obtain ⟨hcrc, hrow, hcol⟩ := hflags
  refine ⟨_, t, hruns, ?_, hdone, hvalid, ht.err, hcrc, hrow, hcol⟩
  have hlast : receiveAnswer (frame (headerOf p) (transmitted p j)) (15 + p.length) =
      ⟨0, if j && decide (0 < p.length) then 2 else 1⟩ := by
    rw [receiveAnswer, List.take_of_length_le (by omega), hclassify]
    exact congrArg (Response.mk 0) (apply_ite verdictCode _ _ _)
  have hrange : 16 + p.length = (15 + p.length) + 1 := by omega
  rw [hlen, hrange, List.range_succ, List.map_append, List.map_singleton, hlast, ← List.cons_append]
  exact List.getLast?_concat

end Sys2Proof.Proofs
